-- ==== Sys2Proof/Word.lean ====
section
/-! DEFINITION. The word types of the block: host register words, symbol fields, register
indices and field elements. -/

namespace Sys2Proof

/-- `Word16` of R11: one host register, 16 bits, unsigned (R10, R23). -/
abbrev Word16 := BitVec 16

/-- `Sym4` of R11: what one symbol field of a register, or one field of the command word, can
hold, 0..15. -/
abbrev Sym4 := BitVec 4

/-- A host register index, 0x0 to 0xF (R23, R60). -/
abbrev RegIdx := BitVec 4

/-- `GF11` of R11: a field element, an integer in 0..10. -/
abbrev GF11 := Fin 11

/-- A 10-symbol word whose symbols need not be field elements (`CW_IN`, `PEND.cw`; R40, R41).
Entry `i` of the vector is the symbol at POSITION `i + 1`: positions are 1..10 (R3, R16, R64). -/
abbrev SymbolWord := Vector Sym4 10

/-- A 10-symbol word of field elements (`CW_OUT`; R40), entry `i` at position `i + 1`. -/
abbrev Codeword := Vector GF11 10

end Sys2Proof
end

