-- ==== Sys2Proof/Config.lean ====
section
/-! DEFINITION. What an implementation or its platform fixes: the parameters of R6 and R67. -/

namespace Sys2Proof

/-- Which of the two square roots the field unit returns (`SQRT_ROOT`, R6). -/
inductive SqrtRoot where
  | smaller
  | larger
deriving DecidableEq, Repr

/-- `SQRT_ROOT` of this hardware (R6, R117): the smaller root. -/
def Config.sqrtRoot : SqrtRoot := .smaller

/-- `PLATFORM_BASE` (R67), OPEN: where the host places the block. No rule reads it. -/
opaque Config.platformBase : Nat

/-- `PLATFORM_STRIDE` (R67), OPEN: the distance of two register indices in the host's own address
space. No rule reads it. -/
opaque Config.platformStride : Nat

/-- The address at which the host's platform reaches register index `idx` (R67). The model's port
takes the index itself. -/
def Config.platformAddress (idx : RegIdx) : Nat :=
  Config.platformBase + Config.platformStride * idx.toNat

end Sys2Proof
end

