-- ==== Sys2Proof/Syntax.lean ====
section
/-! DEFINITION. The commands of the block (command set BCH11-CMD): one constructor per row of the
opcode table. -/

namespace Sys2Proof

/-- A command (R82). Every constructor carries the two operand fields A and B of the command word
(R80, R81), as integers, also where the command ignores one or both of them (R85: an ignored field
may hold any value, so two words that differ in one are two words of the same command). -/
inductive Instr where
  | add (a b : Nat)     -- R112
  | sub (a b : Nat)     -- R113
  | mul (a b : Nat)     -- R114
  | inv (a b : Nat)     -- R115, ignores B
  | div (a b : Nat)     -- R116
  | sqrt (a b : Nat)    -- R117, ignores B
  | synd (a b : Nat)    -- R142, ignores A and B
  | decode (a b : Nat)  -- R160, ignores A and B
deriving DecidableEq, Repr

/-- Field A of the command word. -/
def Instr.operandA : Instr → Nat
  | .add a _ | .sub a _ | .mul a _ | .inv a _ | .div a _ | .sqrt a _ | .synd a _ | .decode a _ => a

/-- Field B of the command word. -/
def Instr.operandB : Instr → Nat
  | .add _ b | .sub _ b | .mul _ b | .inv _ b | .div _ b | .sqrt _ b | .synd _ b | .decode _ b => b

/-- A host access on the register port (R13, R60, R91): a read or a write of one whole 16-bit
register (R61). There is no other access form. -/
inductive Access where
  | read (idx : RegIdx)
  | write (idx : RegIdx) (v : Word16)
deriving DecidableEq, Repr

/-- One event of the block's single total order (R69), as the outside world schedules them.
`engine` is the moment at which the pending command's `LATENCY` is over, so that the engine takes
its one step (R47); `reset` is a cycle with `rst` = 1, in which the host may also make an access,
which has no effect (R230). -/
inductive Event where
  | host (a : Access)
  | engine
  | reset (a : Option Access)
deriving DecidableEq, Repr

end Sys2Proof
end

