-- ==== Sys2Proof/WellFormed.lean ====
section
/-! DEFINITION. Which commands can be written as a command word. -/

namespace Sys2Proof

/-- A command is well formed when both operand fields fit their four bits. R87: operands are
integers in 0..15 and "an operand above 15 is an assembly error". Operands 11..15 are well formed:
they encode without complaint and fault RANGE at the commit (R81, R87). -/
abbrev Instr.WellFormed (i : Instr) : Prop := i.operandA ≤ 15 ∧ i.operandB ≤ 15

end Sys2Proof
end

