-- ==== Sys2Proof/Decode.lean ====
section
/-! DEFINITION. The command word: its fields, the total decoder of R89, the encoder, the
assembler of R87 and the opcode table's rows. -/

namespace Sys2Proof

/-- `v[lo+3 : lo]` for `lo = 4·k`: the k-th 4-bit field of a register word (R10, R63, R80). -/
def nibble (w : Word16) (k : Nat) : Sym4 := w.extractLsb' (4 * k) 4

/-- `{n3, n2, n1, n0}`: four 4-bit fields in one register word, the first-named in bits [3:0]
(R10, R63). -/
def pack4 (n0 n1 n2 n3 : Sym4) : Word16 := n3 ++ n2 ++ n1 ++ n0

/-- Why a word spells no command: its reserved field is not 0 (R84), or its OP is reserved (R83). -/
inductive DecodeError where
  | reservedField (rsv : Sym4)
  | reservedOpcode (op : Sym4)
deriving DecidableEq, Repr

/-- `decode_cmd` of R89 on the four fields of a command word; RSV is examined first (R89, C12). -/
def decodeCmd (op rsv a b : Sym4) : Except DecodeError Instr :=
  if rsv ≠ 0 then .error (.reservedField rsv)
  else
    match op.toNat with
    | 0x1 => .ok (.add a.toNat b.toNat)
    | 0x2 => .ok (.sub a.toNat b.toNat)
    | 0x3 => .ok (.mul a.toNat b.toNat)
    | 0x4 => .ok (.inv a.toNat b.toNat)
    | 0x5 => .ok (.div a.toNat b.toNat)
    | 0x6 => .ok (.sqrt a.toNat b.toNat)
    | 0x8 => .ok (.synd a.toNat b.toNat)
    | 0x9 => .ok (.decode a.toNat b.toNat)
    | _ => .error (.reservedOpcode op)

/-- The decoder on a command word: OP [15:12], RSV [11:8], A [7:4], B [3:0] (R80). Total on all
65536 words (R89). -/
def decode (w : Word16) : Except DecodeError Instr :=
  decodeCmd (nibble w 3) (nibble w 2) (nibble w 1) (nibble w 0)

/-- The OP value of a command (R82). -/
def Instr.opcode : Instr → Sym4
  | .add _ _ => 0x1#4
  | .sub _ _ => 0x2#4
  | .mul _ _ => 0x3#4
  | .inv _ _ => 0x4#4
  | .div _ _ => 0x5#4
  | .sqrt _ _ => 0x6#4
  | .synd _ _ => 0x8#4
  | .decode _ _ => 0x9#4

/-- The word of a command (R80, R82, R84): RSV = 0, operands in A and B. An ignored field is
encoded as it stands (R85). -/
def encode (i : Instr) : Word16 :=
  pack4 (BitVec.ofNat 4 i.operandB) (BitVec.ofNat 4 i.operandA) 0#4 i.opcode

/-- One row of the opcode table: a word `w` belongs to the row when `w & mask = value`. -/
structure OpcodeRow where
  mnemonic : String
  value : Word16
  mask : Word16
deriving DecidableEq, Repr

/-- The opcode table (R82), match and mask as it gives them. -/
def opcodeTable : List OpcodeRow :=
  [⟨"ADD", 0x1000#16, 0xFF00#16⟩, ⟨"SUB", 0x2000#16, 0xFF00#16⟩, ⟨"MUL", 0x3000#16, 0xFF00#16⟩,
   ⟨"INV", 0x4000#16, 0xFF00#16⟩, ⟨"DIV", 0x5000#16, 0xFF00#16⟩, ⟨"SQRT", 0x6000#16, 0xFF00#16⟩,
   ⟨"SYND", 0x8000#16, 0xFF00#16⟩, ⟨"DECODE", 0x9000#16, 0xFF00#16⟩]

/-- The mnemonic of a command (R82). -/
def Instr.mnemonic : Instr → String
  | .add _ _ => "ADD"
  | .sub _ _ => "SUB"
  | .mul _ _ => "MUL"
  | .inv _ _ => "INV"
  | .div _ _ => "DIV"
  | .sqrt _ _ => "SQRT"
  | .synd _ _ => "SYND"
  | .decode _ _ => "DECODE"

/-- The lines of the assembler (R87). -/
inductive AsmLine where
  | add (a b : Nat)
  | sub (a b : Nat)
  | mul (a b : Nat)
  | inv (a : Nat)
  | div (a b : Nat)
  | sqrt (a : Nat)
  | synd
  | decode
  | word (w : Word16)
deriving DecidableEq, Repr

/-- The command an assembler line spells: every ignored field is 0, the canonical encoding (R85).
`.word w` spells a word, not a command. -/
def AsmLine.instr? : AsmLine → Option Instr
  | .add a b => some (.add a b)
  | .sub a b => some (.sub a b)
  | .mul a b => some (.mul a b)
  | .inv a => some (.inv a 0)
  | .div a b => some (.div a b)
  | .sqrt a => some (.sqrt a 0)
  | .synd => some (.synd 0 0)
  | .decode => some (.decode 0 0)
  | .word _ => none

/-- The assembler of R87: the word of a line, or `none` for the assembly error of an operand above
15. Operands 11..15 are encoded. -/
def assemble (line : AsmLine) : Option Word16 :=
  match line with
  | .word w => some w
  | _ =>
    match line.instr? with
    | some i => if i.WellFormed then some (encode i) else none
    | none => none

/-- The instruction the decoder reads from the table's word `w` of `nbits` bits: the bits above
`nbits` are 0, and every command is exactly one 16-bit word (R80, R86). -/
def decodeTableWord (nbits w : Nat) : Option Instr :=
  (decode (BitVec.ofNat 16 (w % 2 ^ nbits))).toOption

end Sys2Proof
end

