-- ==== Sys2Proof/Machine/State.lean ====
section
/-! DEFINITION. The block's state (R20), its reasons to stop, and its reset state (R230). -/

namespace Sys2Proof.Machine

/-- The faults a command can raise (R201). They are outcomes of a COMMIT, recorded in STATUS.FAULT
(R208): the machine goes on after each of them. -/
inductive CmdFault where
  | divByZero     -- code 1, R202
  | nonResidue    -- code 2, R203
  | badPosition   -- code 3, R204
  | range         -- code 4, R205
  | illegalOp     -- code 5, R206
deriving DecidableEq, Repr

/-- The four classifications of a decoded word (R31). -/
inductive Classification where
  | zeroErrors      -- code 1, R165
  | oneError        -- code 2, R166
  | twoErrors       -- code 3, R167
  | uncorrectable   -- code 4, R168
deriving DecidableEq, Repr

/-- `PEND`, the snapshot of the accepted command (R41): the four fields of the accepted word, and
CW_IN as it stood at the acceptance. -/
structure Pending where
  op : Sym4
  rsv : Sym4
  a : Sym4
  b : Sym4
  cw : SymbolWord
deriving DecidableEq, Repr

/-- `PHASE` (R22) together with PEND, which is meaningful only while PHASE = BUSY and is discarded
by a commit and by reset (R41, R208, R209, R230). STATUS.BUSY is the view of this field (R26). -/
inductive Phase where
  | idle
  | busy (pend : Pending)
deriving DecidableEq, Repr

/-- What one host read gave back: the index read and the value returned (R44, R65). -/
structure ReadReturn where
  idx : RegIdx
  value : Word16
deriving DecidableEq, Repr

/-- The whole state. The first four groups are the block's own (R20): the twelve registers of R23,
STATUS as its fields of R25 (its BUSY bit is `phase`), and PHASE with PEND. The last group is the
MODEL's, not the block's: what the outside world does next, and what it has been given. -/
structure State where
  /-- CMD (R24): the last accepted command word. -/
  cmd : Word16
  /-- STATUS.VALID (R27). -/
  valid : Bool
  /-- STATUS.OVR (R28). -/
  ovr : Bool
  /-- STATUS.FAULT (R29, R201): `none` is code 0, NONE. -/
  fault : Option CmdFault
  /-- STATUS.FSTICKY (R30). -/
  fsticky : Bool
  /-- STATUS.CLASS (R31): `none` is code 0, NONE. -/
  cls : Option Classification
  /-- STATUS.LAST_OP (R32). -/
  lastOp : Sym4
  /-- RESULT (R33). -/
  result : Word16
  /-- CW_IN0 to CW_IN2 (R34). -/
  cwIn0 : Word16
  cwIn1 : Word16
  cwIn2 : Word16
  /-- CW_OUT0 to CW_OUT2 (R35). -/
  cwOut0 : Word16
  cwOut1 : Word16
  cwOut2 : Word16
  /-- SYN (R36). -/
  syn : Word16
  /-- LOC (R37). -/
  loc : Word16
  /-- ERR (R38). -/
  err : Word16
  /-- PHASE and PEND (R22, R41). -/
  phase : Phase
  /-- The events still to come, in the total order of R69. The model's own field (log entry 1). -/
  schedule : List Event
  /-- What the host's reads have returned, the newest first. The model's own field (log entry 2). -/
  reads : List ReadReturn
deriving DecidableEq, Repr

/-- Why a step stops with a fault. -/
inductive Fault where
  /-- Raised by `exec` of any command in a state with PHASE = IDLE, and by nothing else: no command
  is pending there, and "While PHASE = IDLE the engine has no step" (R47). `step` never calls `exec`
  in such a state, so no step raises it. Safe. -/
  | noPendingCommand
deriving DecidableEq, Repr

/-- Why a step is refused. -/
inductive Refusal where
  /-- A command whose meaning is not modelled. Every command of the table has its meaning, so nothing
  raises it. Safe. -/
  | notModelled (mnemonic : String)
deriving DecidableEq, Repr

/-- The state after reset (R230): every register 0x0000, PHASE = IDLE, PEND discarded. Nothing is
scheduled and nothing has been read (log entries 1 and 2). -/
def State.reset : State where
  cmd := 0#16
  valid := false
  ovr := false
  fault := none
  fsticky := false
  cls := none
  lastOp := 0#4
  result := 0#16
  cwIn0 := 0#16
  cwIn1 := 0#16
  cwIn2 := 0#16
  cwOut0 := 0#16
  cwOut1 := 0#16
  cwOut2 := 0#16
  syn := 0#16
  loc := 0#16
  err := 0#16
  phase := .idle
  schedule := []
  reads := []

end Sys2Proof.Machine
end

