-- ==== Sys2Proof/Machine/Operands.lean ====
section
/-! DEFINITION. The operand forms: field operands with their range check, the symbol packing of the
registers, and the snapshot a command works on. -/

namespace Sys2Proof.Machine

/-- A value in range, read as the field element of the same integer value (R11, R81). -/
def element (v : Nat) : GF11 := Fin.ofNat 11 v

/-- A used operand of a field command, checked: a value above 10 raises RANGE (R111, R205). -/
def fieldOperand (v : Nat) : Except CmdFault GF11 :=
  if v ≤ 10 then .ok (element v) else .error .range

/-- The input word of SYND and DECODE, checked: any symbol above 10, at any of the ten positions,
raises RANGE before any arithmetic (R142, R161, R205). -/
def inputWord (cw : SymbolWord) : Except CmdFault Codeword :=
  if ∀ i : Fin 10, (cw[i]).toNat ≤ 10 then .ok (Vector.ofFn fun i => element (cw[i]).toNat)
  else .error .range

/-- A field element as the content of a 4-bit symbol field. -/
def symbol (x : GF11) : Sym4 := BitVec.ofNat 4 x.val

/-- Four field elements in one register, the first-named in bits [3:0] (R36, R37, R38, R63). -/
def packElements (x0 x1 x2 x3 : GF11) : Word16 := pack4 (symbol x0) (symbol x1) (symbol x2) (symbol x3)

/-- The symbol file that three registers hold (R63): positions 1..4 in the first register, 5..8 in
the second, 9..10 in bits [7:0] of the third. -/
def unpackWord (w0 w1 w2 : Word16) : SymbolWord :=
  #v[nibble w0 0, nibble w0 1, nibble w0 2, nibble w0 3,
     nibble w1 0, nibble w1 1, nibble w1 2, nibble w1 3,
     nibble w2 0, nibble w2 1]

/-- The three registers that hold a symbol file (R63); bits [15:8] of the third are 0. -/
def packWord (z : SymbolWord) : Word16 × Word16 × Word16 :=
  (pack4 z[0] z[1] z[2] z[3], pack4 z[4] z[5] z[6] z[7], pack4 z[8] z[9] 0#4 0#4)

/-- The symbols of a word of field elements. -/
def symbols (z : Codeword) : SymbolWord := Vector.ofFn fun i => symbol z[i]

/-- `CW_IN[i]`, the view of R40 on CW_IN0 to CW_IN2. -/
def State.cwIn (s : State) : SymbolWord := unpackWord s.cwIn0 s.cwIn1 s.cwIn2

/-- `CW_OUT[i]`, the view of R40 on CW_OUT0 to CW_OUT2. -/
def State.cwOut (s : State) : SymbolWord := unpackWord s.cwOut0 s.cwOut1 s.cwOut2

/-- The snapshot of an accepted command word and of CW_IN at its acceptance (R41, R46). -/
def snapshot (w : Word16) (cw : SymbolWord) : Pending where
  op := nibble w 3
  rsv := nibble w 2
  a := nibble w 1
  b := nibble w 0
  cw := cw

/-- The decoder on the snapshot's fields (R89). -/
def Pending.decode (p : Pending) : Except DecodeError Instr := decodeCmd p.op p.rsv p.a p.b

/-- The four syndromes of a word (R140). -/
structure Syndromes where
  s1 : GF11
  s2 : GF11
  s3 : GF11
  s4 : GF11
deriving DecidableEq, Repr

/-- The locator quantities P, Q, R and the discriminant D (R163). -/
structure Locator where
  p : GF11
  q : GF11
  r : GF11
  d : GF11
deriving DecidableEq, Repr

/-- What DECODE finds in a word (R164): which of the four cases, and the error pairs. -/
inductive Diagnosis where
  | zeroErrors
  | oneError (pos mag : GF11)
  | twoErrors (pos1 mag1 pos2 mag2 : GF11)
  | uncorrectable
deriving DecidableEq, Repr

/-- What a successful command writes beside the STATUS fields (R48, R209): a field command RESULT,
SYND the syndromes, DECODE the output word, syndromes, locator and error descriptor. -/
inductive Writes where
  | result (y : GF11)
  | syndromes (S : Syndromes)
  | decoded (z : Codeword) (S : Syndromes) (L : Locator) (d : Diagnosis)
deriving DecidableEq, Repr

end Sys2Proof.Machine
end

