-- ==== Sys2Proof/Machine/Gf.lean ====
section
/-! DEFINITION. The field functions of the field arithmetic unit (R110 to R118): pure functions on
field elements. -/

namespace Sys2Proof.Machine.Gf

/-- `mod11(x)` of R12: the integer m in 0..10 with x − m divisible by 11; never negative. -/
def mod11 (x : Int) : GF11 := ⟨(x % 11).toNat, by omega⟩

/-- `add(a, b) = mod11(a + b)` (R112). -/
def add (a b : GF11) : GF11 := mod11 ((a.val : Int) + b.val)

/-- `sub(a, b) = mod11(a − b)` (R113). -/
def sub (a b : GF11) : GF11 := mod11 ((a.val : Int) - b.val)

/-- `mul(a, b) = mod11(a · b)` (R114). -/
def mul (a b : GF11) : GF11 := mod11 ((a.val : Int) * b.val)

/-- The eleven field elements in ascending order (R11). -/
def elements : List GF11 := [0, 1, 2, 3, 4, 5, 6, 7, 8, 9, 10]

/-- `inv(a)` (R115): DIV_BY_ZERO for a = 0, else the unique b with mod11(a·b) = 1. -/
def inv (a : GF11) : Except CmdFault GF11 :=
  match elements.find? (fun b => mul a b = 1) with
  | some b => .ok b
  | none => .error .divByZero

/-- `div(a, b) = mul(a, inv(b))` (R116): DIV_BY_ZERO for b = 0, whatever a is. -/
def div (a b : GF11) : Except CmdFault GF11 :=
  match inv b with
  | .ok c => .ok (mul a c)
  | .error e => .error e

/-- The square root of `a` (R117): the smaller or the larger root of r·r ≡ a; NON_RESIDUE where
there is none. -/
def sqrtWith (root : SqrtRoot) (a : GF11) : Except CmdFault GF11 :=
  let candidates := match root with
    | .smaller => elements
    | .larger => elements.reverse
  match candidates.find? (fun r => mul r r = a) with
  | some r => .ok r
  | none => .error .nonResidue

/-- `sqrt(a)` (R117): the designated root of this hardware. -/
def sqrt (a : GF11) : Except CmdFault GF11 := sqrtWith Config.sqrtRoot a

end Sys2Proof.Machine.Gf
end

