-- ==== Sys2Proof/Machine/Flags.lean ====
section
/-! DEFINITION. The STATUS register: its field codes and its word (R25). -/

namespace Sys2Proof.Machine

/-- The fault codes (R201). Codes 6 and 7 are never written (R29). -/
def CmdFault.code : CmdFault → BitVec 3
  | .divByZero => 1#3
  | .nonResidue => 2#3
  | .badPosition => 3#3
  | .range => 4#3
  | .illegalOp => 5#3

/-- STATUS.FAULT as bits [6:4] (R29): 0 is NONE. -/
def faultBits : Option CmdFault → BitVec 3
  | none => 0#3
  | some c => c.code

/-- The classification codes (R31). -/
def Classification.code : Classification → BitVec 3
  | .zeroErrors => 1#3
  | .oneError => 2#3
  | .twoErrors => 3#3
  | .uncorrectable => 4#3

/-- STATUS.CLASS as bits [10:8] (R31): 0 is NONE. -/
def classBits : Option Classification → BitVec 3
  | none => 0#3
  | some c => c.code

/-- STATUS.BUSY: 1 exactly when PHASE = BUSY (R26). -/
def State.busy (s : State) : Bool :=
  match s.phase with
  | .idle => false
  | .busy _ => true

/-- The STATUS word (R25): LAST_OP [15:12], bit 11 reads 0, CLASS [10:8], FSTICKY [7], FAULT [6:4],
bit 3 reads 0, OVR [2], VALID [1], BUSY [0]. -/
def State.statusWord (s : State) : Word16 :=
  s.lastOp ++ 0#1 ++ classBits s.cls ++ BitVec.ofBool s.fsticky ++ faultBits s.fault ++ 0#1 ++
    BitVec.ofBool s.ovr ++ BitVec.ofBool s.valid ++ BitVec.ofBool s.busy

/-- The class that a successful commit writes (R31, R209): the case of a DECODE, else NONE. -/
def Diagnosis.cls : Diagnosis → Classification
  | .zeroErrors => .zeroErrors
  | .oneError _ _ => .oneError
  | .twoErrors _ _ _ _ => .twoErrors
  | .uncorrectable => .uncorrectable

/-- STATUS.CLASS after a successful commit (R31, R209). -/
def Writes.cls : Writes → Option Classification
  | .result _ => none
  | .syndromes _ => none
  | .decoded _ _ _ d => some d.cls

end Sys2Proof.Machine
end

