-- ==== Sys2Proof/Machine/Ops.lean ====
section
/-! DEFINITION. The named operations on the block's state: the two commits (R208, R209), the
host's register port (R44 to R46), and reset (R230). -/

namespace Sys2Proof.Machine

/-! ### Commit -/

/-- The error descriptor that a diagnosis writes to ERR (R38, R169): POS1, MAG1, POS2, MAG2, with
(0, 0) for "no pair". -/
def Diagnosis.errWord : Diagnosis → Word16
  | .zeroErrors => packElements 0 0 0 0
  | .oneError p e => packElements p e 0 0
  | .twoErrors p1 e1 p2 e2 => packElements p1 e1 p2 e2
  | .uncorrectable => packElements 0 0 0 0

/-- SYN's content (R36). -/
def Syndromes.word (S : Syndromes) : Word16 := packElements S.s1 S.s2 S.s3 S.s4

/-- LOC's content (R37). -/
def Locator.word (L : Locator) : Word16 := packElements L.p L.q L.r L.d

/-- The result registers a successful command writes, and nothing else (R48, R111, R142, R169). -/
def State.writeResults (s : State) : Writes → State
  | .result y => { s with result := packElements y 0 0 0 }
  | .syndromes S => { s with syn := S.word }
  | .decoded z S L d =>
    { s with
      cwOut0 := (packWord (symbols z)).1
      cwOut1 := (packWord (symbols z)).2.1
      cwOut2 := (packWord (symbols z)).2.2
      syn := S.word
      loc := L.word
      err := d.errWord }

/-- The successful commit (R209) of the pending command `p`: its result registers and the STATUS
fields of R47, at once. FSTICKY and OVR are unchanged. -/
def State.commit (s : State) (p : Pending) (w : Writes) : State :=
  { s.writeResults w with
    fault := none
    cls := w.cls
    lastOp := p.op
    valid := true
    phase := .idle }

/-- The fault commit (R208), the block's one way of taking a fault: STATUS records the code and the
OP field and nothing else is written. No state is saved and no control is transferred, so there is
no return from it either: the engine is IDLE and accepts the next command (R200, R210). -/
def State.commitFault (s : State) (p : Pending) (c : CmdFault) : State :=
  { s with
    fault := some c
    fsticky := true
    cls := none
    lastOp := p.op
    valid := true
    phase := .idle }

/-- The commit of a command whose effect is `compute` on the snapshot (R47): by R208 when it raises
a fault, else by R209. Only a pending command can commit. -/
def runCommand (compute : Pending → Except CmdFault Writes) (s : State) :
    Host.Outcome State Fault Refusal :=
  match s.phase with
  | .idle => .fault .noPendingCommand
  | .busy p =>
    match compute p with
    | .error c => .next (s.commitFault p c)
    | .ok w => .next (s.commit p w)

/-! ### The host's register port -/

/-- The twelve registers of R23. -/
inductive Reg where
  | cmd | status | result
  | cwIn0 | cwIn1 | cwIn2
  | cwOut0 | cwOut1 | cwOut2
  | syn | loc | err
deriving DecidableEq, Repr

/-- The register at an index (R23); indices 0xC to 0xF are reserved (R39). -/
def regAt (idx : RegIdx) : Option Reg :=
  match idx.toNat with
  | 0x0 => some .cmd
  | 0x1 => some .status
  | 0x2 => some .result
  | 0x3 => some .cwIn0
  | 0x4 => some .cwIn1
  | 0x5 => some .cwIn2
  | 0x6 => some .cwOut0
  | 0x7 => some .cwOut1
  | 0x8 => some .cwOut2
  | 0x9 => some .syn
  | 0xA => some .loc
  | 0xB => some .err
  | _ => none

/-- The current value of a register (R24 to R38). -/
def State.reg (s : State) : Reg → Word16
  | .cmd => s.cmd
  | .status => s.statusWord
  | .result => s.result
  | .cwIn0 => s.cwIn0
  | .cwIn1 => s.cwIn1
  | .cwIn2 => s.cwIn2
  | .cwOut0 => s.cwOut0
  | .cwOut1 => s.cwOut1
  | .cwOut2 => s.cwOut2
  | .syn => s.syn
  | .loc => s.loc
  | .err => s.err

/-- `RegRead(idx)` (R44): the register's current value; a reserved index reads 0x0000 (R39). -/
def State.regRead (s : State) (idx : RegIdx) : Word16 :=
  match regAt idx with
  | some r => s.reg r
  | none => 0#16

/-- The accept of a command word (R46): CMD takes it, PEND takes its fields and CW_IN, and PHASE
becomes BUSY. Nothing is checked. -/
def State.accept (s : State) (v : Word16) : State :=
  { s with cmd := v, phase := .busy (snapshot v s.cwIn) }

/-- A host write to CMD (R46): accepted while IDLE, dropped with OVR set while BUSY. -/
def State.issue (s : State) (v : Word16) : State :=
  match s.phase with
  | .idle => s.accept v
  | .busy _ => { s with ovr := true }

/-- `RegWrite(idx, v)` (R45): CMD issues a command, CW_IN stores (bits [15:8] of CW_IN2 are
discarded, R34), and a write to a read-only register or a reserved index (R39) is ignored. -/
def State.regWrite (s : State) (idx : RegIdx) (v : Word16) : State :=
  match regAt idx with
  | some .cmd => s.issue v
  | some .cwIn0 => { s with cwIn0 := v }
  | some .cwIn1 => { s with cwIn1 := v }
  | some .cwIn2 => { s with cwIn2 := v &&& 0x00FF#16 }
  | some .status => s
  | some .result => s
  | some .cwOut0 => s
  | some .cwOut1 => s
  | some .cwOut2 => s
  | some .syn => s
  | some .loc => s
  | some .err => s
  | none => s

/-- The host is given what a read returns (log entry 2). -/
def State.giveHost (s : State) (idx : RegIdx) (v : Word16) : State :=
  { s with reads := ⟨idx, v⟩ :: s.reads }

/-- One host access (R44, R45). A read changes no state of the block. -/
def State.access (s : State) : Access → State
  | .read idx => s.giveHost idx (s.regRead idx)
  | .write idx v => s.regWrite idx v

/-! ### Reset -/

/-- The block's own state after reset (R230). What the outside world does next, and what it has
been given, is not the block's. -/
def State.resetBlock (s : State) : State :=
  { State.reset with schedule := s.schedule, reads := s.reads }

/-- A cycle with `rst` = 1 (R230): the block is reset and the pending command never commits. A host
access in that cycle has no effect: a write is ignored and a read returns the reset value. -/
def State.resetCycle (s : State) : Option Access → State
  | none => s.resetBlock
  | some (.write _ _) => s.resetBlock
  | some (.read idx) => s.resetBlock.giveHost idx (State.reset.regRead idx)

end Sys2Proof.Machine
end

