-- ==== Sys2Proof/Machine/Syndrome.lean ====
section
/-! DEFINITION. The syndrome transform and the SYND command (R140 to R142). -/

namespace Sys2Proof.Machine

/-- Σ y_i · i^k over the positions i = 1..10, the exact integer (R140). -/
def weightedSum (y : Codeword) (k : Nat) : Nat :=
  ((List.finRange 10).map fun i => (y[i]).val * (i.val + 1) ^ k).sum

/-- `Syndrome(y)` (R140): S_k = mod11(Σ y_i · i^(k−1)) for k = 1..4. -/
def syndromesOf (y : Codeword) : Syndromes where
  s1 := Gf.mod11 (weightedSum y 0)
  s2 := Gf.mod11 (weightedSum y 1)
  s3 := Gf.mod11 (weightedSum y 2)
  s4 := Gf.mod11 (weightedSum y 3)

/-- What SYND computes from the snapshot (R142). -/
def syndCommand (p : Pending) : Except CmdFault Writes :=
  match inputWord p.cw with
  | .ok y => .ok (.syndromes (syndromesOf y))
  | .error c => .error c

/-- SYND (R142). A and B are ignored (R85). -/
def execSynd (_a _b : Nat) (s : State) : Host.Outcome State Fault Refusal :=
  runCommand syndCommand s

end Sys2Proof.Machine
end

