-- ==== Sys2Proof/Machine/Decoder.lean ====
section
/-! DEFINITION. The decoder with its error-locator solver, and the DECODE command (R160 to R169). -/

namespace Sys2Proof.Machine

/-- P, Q, R and D of the syndromes (R163). -/
def locatorOf (S : Syndromes) : Locator :=
  let p := Gf.sub (Gf.mul S.s2 S.s2) (Gf.mul S.s1 S.s3)
  let q := Gf.sub (Gf.mul S.s1 S.s4) (Gf.mul S.s2 S.s3)
  let r := Gf.sub (Gf.mul S.s3 S.s3) (Gf.mul S.s2 S.s4)
  { p := p, q := q, r := r, d := Gf.sub (Gf.mul q q) (Gf.mul 4 (Gf.mul p r)) }

/-- Case 2 (R166): e = S1 and p = div(S2, S1), which raises DIV_BY_ZERO when S1 = 0; p = 0 is no
position and raises BAD_POSITION. -/
def solveOne (S : Syndromes) : Except CmdFault Diagnosis :=
  match Gf.div S.s2 S.s1 with
  | .ok p => if p = 0 then .error .badPosition else .ok (.oneError p S.s1)
  | .error c => .error c

/-- Case 3, the error-locator solver (R167), with either choice of the root of D (R174). -/
def solveTwo (root : SqrtRoot) (S : Syndromes) (L : Locator) : Except CmdFault Diagnosis := do
  let r ← Gf.sqrtWith root L.d
  let pos2 ← Gf.div (Gf.sub (Gf.sub 0 L.q) r) (Gf.mul 2 L.p)
  let pos1 ← Gf.div (Gf.add (Gf.sub 0 L.q) r) (Gf.mul 2 L.p)
  let mag2 ← Gf.div (Gf.sub (Gf.mul pos1 S.s1) S.s2) (Gf.sub pos1 pos2)
  let mag1 := Gf.sub S.s1 mag2
  .ok (.twoErrors pos1 mag1 pos2 mag2)

/-- The case dispatch (R164): the four cases in order, the first whose condition holds (R165 to
R168). The nonzero quadratic residues are {1,3,4,5,9} (R167). -/
def diagnoseWith (root : SqrtRoot) (S : Syndromes) : Except CmdFault Diagnosis :=
  let L := locatorOf S
  if S.s1 = 0 ∧ S.s2 = 0 ∧ S.s3 = 0 ∧ S.s4 = 0 then .ok .zeroErrors
  else if L.p = 0 ∧ L.q = 0 ∧ L.r = 0 then solveOne S
  else if L.p ≠ 0 ∧ L.r ≠ 0 ∧ L.d ∈ [1, 3, 4, 5, 9] then solveTwo root S L
  else .ok .uncorrectable

/-- The case dispatch with this hardware's root (R117, R160). -/
def diagnose (S : Syndromes) : Except CmdFault Diagnosis := diagnoseWith Config.sqrtRoot S

/-- `z[p] <- sub(z[p], e)` (R166, R167): the symbol at position p is corrected, every other symbol
is unchanged. -/
def subtractAt (z : Codeword) (p e : GF11) : Codeword :=
  Vector.ofFn fun i => if p.val = i.val + 1 then Gf.sub z[i] e else z[i]

/-- The output word of each case (R165 to R168). -/
def Diagnosis.correct (y : Codeword) : Diagnosis → Codeword
  | .zeroErrors => y
  | .oneError p e => subtractAt y p e
  | .twoErrors p1 e1 p2 e2 => subtractAt (subtractAt y p1 e1) p2 e2
  | .uncorrectable => y

/-- What DECODE computes from the snapshot (R160). -/
def decodeCommand (p : Pending) : Except CmdFault Writes :=
  match inputWord p.cw with
  | .error c => .error c
  | .ok y =>
    match diagnose (syndromesOf y) with
    | .error c => .error c
    | .ok d => .ok (.decoded (d.correct y) (syndromesOf y) (locatorOf (syndromesOf y)) d)

/-- DECODE (R160). A and B are ignored (R85). -/
def execDecode (_a _b : Nat) (s : State) : Host.Outcome State Fault Refusal :=
  runCommand decodeCommand s

end Sys2Proof.Machine
end

