-- ==== Sys2Proof/Machine/FieldArith.lean ====
section
/-! DEFINITION. The six field commands (R111 to R117). -/

namespace Sys2Proof.Machine

/-- The frame of the two-operand field commands (R111): both operands are range-checked. -/
def binaryField (F : GF11 → GF11 → Except CmdFault GF11) (a b : Nat) : Except CmdFault Writes :=
  match fieldOperand a, fieldOperand b with
  | .ok x, .ok y =>
    match F x y with
    | .ok r => .ok (.result r)
    | .error c => .error c
  | .error c, _ => .error c
  | .ok _, .error c => .error c

/-- The frame of the one-operand field commands (R111): B is not checked (R85). -/
def unaryField (F : GF11 → Except CmdFault GF11) (a : Nat) : Except CmdFault Writes :=
  match fieldOperand a with
  | .ok x =>
    match F x with
    | .ok r => .ok (.result r)
    | .error c => .error c
  | .error c => .error c

/-- ADD (R112). -/
def execAdd (a b : Nat) (s : State) : Host.Outcome State Fault Refusal :=
  runCommand (fun _ => binaryField (fun x y => .ok (Gf.add x y)) a b) s

/-- SUB (R113). -/
def execSub (a b : Nat) (s : State) : Host.Outcome State Fault Refusal :=
  runCommand (fun _ => binaryField (fun x y => .ok (Gf.sub x y)) a b) s

/-- MUL (R114). -/
def execMul (a b : Nat) (s : State) : Host.Outcome State Fault Refusal :=
  runCommand (fun _ => binaryField (fun x y => .ok (Gf.mul x y)) a b) s

/-- INV (R115). -/
def execInv (a _b : Nat) (s : State) : Host.Outcome State Fault Refusal :=
  runCommand (fun _ => unaryField Gf.inv a) s

/-- DIV (R116). -/
def execDiv (a b : Nat) (s : State) : Host.Outcome State Fault Refusal :=
  runCommand (fun _ => binaryField Gf.div a b) s

/-- SQRT (R117). -/
def execSqrt (a _b : Nat) (s : State) : Host.Outcome State Fault Refusal :=
  runCommand (fun _ => unaryField Gf.sqrt a) s

end Sys2Proof.Machine
end

