-- ==== Sys2Proof/Machine/Dispatch.lean ====
section
/-! DEFINITION. Which meaning each command has: the execution part of the commit (R47, R89). -/

namespace Sys2Proof.Machine

-- One arm per row of the opcode table (R82).
def exec (i : Instr) (s : State) : Host.Outcome State Fault Refusal :=
  match i with
  | .add a b => Sys2Proof.Machine.execAdd a b s
  | .sub a b => Sys2Proof.Machine.execSub a b s
  | .mul a b => Sys2Proof.Machine.execMul a b s
  | .inv a b => Sys2Proof.Machine.execInv a b s
  | .div a b => Sys2Proof.Machine.execDiv a b s
  | .sqrt a b => Sys2Proof.Machine.execSqrt a b s
  | .synd a b => Sys2Proof.Machine.execSynd a b s
  | .decode a b => Sys2Proof.Machine.execDecode a b s

end Sys2Proof.Machine
end

