-- ==== Sys2Proof/Machine/Step.lean ====
section
/-! DEFINITION. One step of the machine: one event of the total order (R8, R9, R69). -/

namespace Sys2Proof.Machine

/-- The engine's turn (R47): while BUSY its one step is the commit of the pending command, which
faults ILLEGAL_OP when the snapshot decodes to no command (R89, R206); while IDLE it has no step. -/
def engineTurn (s : State) : Host.Outcome State Fault Refusal :=
  match s.phase with
  | .idle => .next s
  | .busy p =>
    match p.decode with
    | .error _ => .next (s.commitFault p .illegalOp)
    | .ok i => exec i s

/-- One event (R69). -/
def perform (e : Event) (s : State) : Host.Outcome State Fault Refusal :=
  match e with
  | .host a => .next (s.access a)
  | .engine => engineTurn s
  | .reset a => .next (s.resetCycle a)

/-- One step: the next scheduled event. When the outside world has nothing more to do the engine has
its turn, so that a pending command commits (R241), and with no command pending the block waits
unchanged (log entry 1). -/
def step (s : State) : Host.Outcome State Fault Refusal :=
  match s.schedule with
  | [] => engineTurn s
  | e :: rest => perform e { s with schedule := rest }

/-- The state in which the very next step runs the command word `w`: the word is accepted (R46) and
the next event is the engine's commit of it. Bits above `nbits` are 0; a command is one 16-bit
word. -/
def State.withFetchWord (s : State) (nbits w : Nat) : State :=
  { s.accept (BitVec.ofNat 16 (w % 2 ^ nbits)) with schedule := .engine :: s.schedule }

end Sys2Proof.Machine
end

