-- ==== Sys2Proof/Machine/HostProgram.lean ====
section
/-! DEFINITION. Host programs as events: the pseudo-instructions of R88 and the clock cycle of
R238. The host's own control flow is not the block's; a program's run is the list of events it
makes. -/

namespace Sys2Proof.Machine

/-- One line of a host program (R88). `waits` is how often POLL reads STATUS before the pending
command's `LATENCY` is over (R240): it is open, so a program's run is one run for each value. -/
inductive HostLine where
  | wr (idx : RegIdx) (v : Word16)
  | rd (idx : RegIdx)
  | issue (w : Word16)
  | poll (waits : Nat)
  | run (w : Word16) (waits : Nat)
  | ldcw (y : SymbolWord)
deriving DecidableEq, Repr

/-- `POLL` (R88): reads of STATUS that find BUSY = 1, the commit, and the read that ends the loop. -/
def pollEvents (waits : Nat) : List Event :=
  List.replicate waits (.host (.read 0x1#4)) ++ [.engine, .host (.read 0x1#4)]

/-- The value that one WR of `LDCW` writes (R88). -/
def ldcwValue (y0 y1 y2 y3 : Sym4) : Word16 :=
  BitVec.ofNat 16 (y0.toNat + 16 * y1.toNat + 256 * y2.toNat + 4096 * y3.toNat)

/-- `LDCW y1, ..., y10` (R88). -/
def ldcwEvents (y : SymbolWord) : List Event :=
  [.host (.write 0x3#4 (ldcwValue y[0] y[1] y[2] y[3])),
   .host (.write 0x4#4 (ldcwValue y[4] y[5] y[6] y[7])),
   .host (.write 0x5#4 (ldcwValue y[8] y[9] 0#4 0#4))]

/-- The port accesses of a line (R88). -/
def HostLine.events : HostLine → List Event
  | .wr idx v => [.host (.write idx v)]
  | .rd idx => [.host (.read idx)]
  | .issue w => [.host (.write 0x0#4 w)]
  | .poll waits => pollEvents waits
  | .run w waits => .host (.write 0x0#4 w) :: pollEvents waits
  | .ldcw y => ldcwEvents y

/-- One cycle of `clk` at the block's inputs: whether `rst` is 1, the host's access, and whether the
pending command's `LATENCY` ends in this cycle. -/
structure Cycle where
  rst : Bool
  access : Option Access
  commits : Bool
deriving DecidableEq, Repr

/-- The events of a cycle (R230, R238): reset overrides the rest; else the host access comes before
the commit, since a write to CMD sees BUSY as it was and a read returns the value before it. -/
def Cycle.events (c : Cycle) : List Event :=
  if c.rst then [.reset c.access]
  else
    (match c.access with
      | some a => [.host a]
      | none => []) ++ (if c.commits then [.engine] else [])

end Sys2Proof.Machine
end

