-- ==== Sys2Proof/Safety.lean ====
section
/-! DEFINITION. What a good state of the block is: the value invariants of R43 and the rules that
bind the registers to each other. -/

namespace Sys2Proof.Machine

/-- Every 4-bit field of a register is a field element, 0..10. -/
def AllSymbolsInRange (w : Word16) : Prop := ∀ k : Fin 4, (nibble w k.val).toNat ≤ 10

/-- An error pair of ERR (R38): (0, 0), or position and magnitude both in 1..10. -/
def ErrorPair (pos mag : Sym4) : Prop :=
  (pos = 0 ∧ mag = 0) ∨ (1 ≤ pos.toNat ∧ pos.toNat ≤ 10 ∧ 1 ≤ mag.toNat ∧ mag.toNat ≤ 10)

/-- The invariant of the block. -/
structure State.Inv (s : State) : Prop where
  /-- R33, R43: RESULT is a field element and its bits [15:4] are 0. -/
  result_range : s.result.toNat ≤ 10
  /-- R34: bits [15:8] of CW_IN2 read 0. -/
  cwIn2_high : s.cwIn2.toNat < 256
  /-- R35, R43: every symbol of CW_OUT is in 0..10, and bits [15:8] of CW_OUT2 read 0. -/
  cwOut0_range : AllSymbolsInRange s.cwOut0
  cwOut1_range : AllSymbolsInRange s.cwOut1
  cwOut2_range : AllSymbolsInRange s.cwOut2
  cwOut2_high : s.cwOut2.toNat < 256
  /-- R36, R43. -/
  syn_range : AllSymbolsInRange s.syn
  /-- R37, R43. -/
  loc_range : AllSymbolsInRange s.loc
  /-- R38, R43: each pair of ERR is no pair or a real one. -/
  err_first : ErrorPair (nibble s.err 0) (nibble s.err 1)
  err_second : ErrorPair (nibble s.err 2) (nibble s.err 3)
  /-- R27: before the first commit every result register holds its reset value, and no commit has
  written STATUS. -/
  before_commit : s.valid = false →
    s.result = 0 ∧ s.cwOut0 = 0 ∧ s.cwOut1 = 0 ∧ s.cwOut2 = 0 ∧ s.syn = 0 ∧ s.loc = 0 ∧ s.err = 0 ∧
      s.fault = none ∧ s.fsticky = false ∧ s.cls = none ∧ s.lastOp = 0
  /-- R30: a recorded fault has set FSTICKY. -/
  fault_sticky : s.fault ≠ none → s.fsticky = true
  /-- R31: a class is recorded only by a DECODE that did not fault. -/
  class_decode : s.cls ≠ none → s.lastOp = 0x9#4 ∧ s.fault = none
  /-- R83, R206: a committed reserved opcode has faulted ILLEGAL_OP. -/
  reserved_illegal : s.valid = true →
    s.lastOp ∉ [0x1#4, 0x2#4, 0x3#4, 0x4#4, 0x5#4, 0x6#4, 0x8#4, 0x9#4] → s.fault = some .illegalOp
  /-- R24, R41, R46: while a command is pending, CMD holds its word. -/
  pending_word : ∀ p, s.phase = .busy p →
    p.op = nibble s.cmd 3 ∧ p.rsv = nibble s.cmd 2 ∧ p.a = nibble s.cmd 1 ∧ p.b = nibble s.cmd 0

end Sys2Proof.Machine
end

