-- ==== Sys2Proof/Certificates/Slice0/Obligations.lean ====
section
/-! DEFINITION. The statements about the block, one for each rule or derived fact, over integer
arithmetic of their own and not over the model's field functions. -/

namespace Sys2Proof.Spec

open Sys2Proof.Machine

/-! ### The vocabulary of the statements -/

/-- The state after a successful field command with OP `op` and result `y` (R111, R209): RESULT and
the STATUS fields of R47, and nothing else. -/
def fieldCommitted (s : State) (op : Sym4) (y : Nat) : State :=
  { s with
    result := BitVec.ofNat 16 y, fault := none, cls := none, lastOp := op, valid := true,
    phase := .idle }

/-- The state after a fault commit (R208): the STATUS fields, and nothing else. -/
def faultCommitted (s : State) (op : Sym4) (c : CmdFault) : State :=
  { s with
    fault := some c, fsticky := true, cls := none, lastOp := op, valid := true, phase := .idle }

/-- Four symbols in one register, the first in bits [3:0] (R63). -/
def word (n0 n1 n2 n3 : Nat) : Word16 := BitVec.ofNat 16 (n0 + 16 * n1 + 256 * n2 + 4096 * n3)

/-- The state after a successful DECODE with output symbols `z` at positions 1..10 (R160, R169). -/
def decodeCommitted (s : State) (z : Fin 10 → Nat) (syn loc err : Word16) (c : Classification) :
    State :=
  { s with
    cwOut0 := word (z 0) (z 1) (z 2) (z 3), cwOut1 := word (z 4) (z 5) (z 6) (z 7),
    cwOut2 := word (z 8) (z 9) 0 0, syn := syn, loc := loc, err := err,
    fault := none, cls := some c, lastOp := 0x9#4, valid := true, phase := .idle }

/-- Every symbol is a field element (R11). -/
abbrev InRange (cw : SymbolWord) : Prop := ∀ i : Fin 10, (cw[i]).toNat ≤ 10

/-- `S_k` of R140, in integers: (Σ y_i · i^(k−1)) mod 11. -/
def synOf (cw : SymbolWord) (k : Nat) : Nat :=
  (∑ i : Fin 10, (cw[i]).toNat * (i.val + 1) ^ (k - 1)) % 11

/-- The residue in 0..10 of an integer (R12). -/
def residue (x : Int) : Nat := (x % 11).toNat

/-- `P` of R163. -/
def pOf (cw : SymbolWord) : Nat :=
  residue ((synOf cw 2 : Int) * synOf cw 2 - synOf cw 1 * synOf cw 3)

/-- `Q` of R163. -/
def qOf (cw : SymbolWord) : Nat :=
  residue ((synOf cw 1 : Int) * synOf cw 4 - synOf cw 2 * synOf cw 3)

/-- `R` of R163. -/
def rOf (cw : SymbolWord) : Nat :=
  residue ((synOf cw 3 : Int) * synOf cw 3 - synOf cw 2 * synOf cw 4)

/-- `D` of R163. -/
def dOf (cw : SymbolWord) : Nat := residue ((qOf cw : Int) * qOf cw - 4 * (pOf cw * rOf cw))

/-- The content of SYN for a word (R36). -/
def synWord (cw : SymbolWord) : Word16 :=
  word (synOf cw 1) (synOf cw 2) (synOf cw 3) (synOf cw 4)

/-- The content of LOC for a word (R37). -/
def locWord (cw : SymbolWord) : Word16 := word (pOf cw) (qOf cw) (rOf cw) (dOf cw)

/-- All four syndromes are 0 (R143, R165). -/
abbrev ZeroSyndrome (cw : SymbolWord) : Prop :=
  synOf cw 1 = 0 ∧ synOf cw 2 = 0 ∧ synOf cw 3 = 0 ∧ synOf cw 4 = 0

/-- The condition of case 2 without the order (R166). -/
abbrev ZeroLocator (cw : SymbolWord) : Prop := pOf cw = 0 ∧ qOf cw = 0 ∧ rOf cw = 0

/-- The condition of case 3 without the order (R167). -/
abbrev TwoErrorLocator (cw : SymbolWord) : Prop :=
  pOf cw ≠ 0 ∧ rOf cw ≠ 0 ∧ dOf cw ∈ [1, 3, 4, 5, 9]

/-- The word with `e` subtracted, mod 11, at position `p` (R15, R166). -/
def corrected (z : Fin 10 → Nat) (p e : Nat) : Fin 10 → Nat :=
  fun i => if i.val + 1 = p then (z i + 11 - e) % 11 else z i

/-- The OP values of the opcode table (R82). -/
def opcodes : List Sym4 := [0x1#4, 0x2#4, 0x3#4, 0x4#4, 0x5#4, 0x6#4, 0x8#4, 0x9#4]

/-- The OP values that spell no command (R83). -/
def reservedOps : List Sym4 :=
  [0x0#4, 0x7#4, 0xA#4, 0xB#4, 0xC#4, 0xD#4, 0xE#4, 0xF#4]

/-- The 11^4 = 14641 syndrome vectors (R145, R173). -/
def allSyndromes : List Syndromes :=
  (List.finRange 11).flatMap fun s1 => (List.finRange 11).flatMap fun s2 =>
    (List.finRange 11).flatMap fun s3 => (List.finRange 11).map fun s4 => ⟨s1, s2, s3, s4⟩

/-- A command of the field arithmetic unit. -/
def IsFieldCommand : Instr → Prop
  | .add _ _ | .sub _ _ | .mul _ _ | .inv _ _ | .div _ _ | .sqrt _ _ => True
  | .synd _ _ | .decode _ _ => False

/-- The operand fields that the command uses (R82): A and B, A alone, or none. -/
def usedOperands : Instr → List Nat
  | .add a b | .sub a b | .mul a b | .div a b => [a, b]
  | .inv a _ | .sqrt a _ => [a]
  | .synd _ _ | .decode _ _ => []

/-- The command works on the input word (R82). -/
def UsesWord : Instr → Prop
  | .synd _ _ | .decode _ _ => True
  | .add _ _ | .sub _ _ | .mul _ _ | .inv _ _ | .div _ _ | .sqrt _ _ => False

/-- An operand or an input symbol that the command uses is 11 or more (R205). -/
def OutOfRange (i : Instr) (p : Pending) : Prop :=
  (∃ v ∈ usedOperands i, 10 < v) ∨ (UsesWord i ∧ ¬ InRange p.cw)

/-- The event that `step` performs next (R69): the first of the schedule, or, by log entry 1, the
engine's turn when nothing is scheduled. -/
def nextEvent (s : State) : Event := s.schedule.headD .engine

/-- The next event is a cycle with `rst` = 1. -/
def ResetNext (s : State) : Prop := ∃ a, nextEvent s = .reset a

/-- The next event is a host write to CMD. -/
def CmdWriteNext (s : State) : Prop := ∃ v, nextEvent s = .host (.write 0x0#4 v)

/-- The state after the given number of steps. -/
def After (n : Nat) (s t : State) : Prop := Host.Core.run Sys2Proof.core n s = .next t

/-- The events are host accesses or engine turns, no reset. -/
abbrev NoReset (evs : List Event) : Prop := ∀ e ∈ evs, ∀ a, e ≠ .reset a

/-- The indices that the accesses read, in order. -/
def readIndices (accs : List Access) : List RegIdx :=
  accs.filterMap fun
    | .read idx => some idx
    | .write _ _ => none

/-- The result registers by index (R23, R71). -/
def resultRegisters (s : State) : List (RegIdx × Word16) :=
  [(0x2#4, s.result), (0x6#4, s.cwOut0), (0x7#4, s.cwOut1), (0x8#4, s.cwOut2), (0x9#4, s.syn),
    (0xA#4, s.loc), (0xB#4, s.err)]

end Sys2Proof.Spec

open Sys2Proof Sys2Proof.Machine Sys2Proof.Spec

/-! ### Encoding -/

/-- Decode and encode are inverse: a word decodes to a command exactly when the command is well formed
and the word is its encoding, with both operand fields at every value 0..15, ignored ones too (R80,
R81, R82, R85, R89). -/
def Obligations.DecodeAndEncodeAreInverse : Prop :=
  ∀ (w : Word16) (i : Instr), decode w = .ok i ↔ i.WellFormed ∧ w = encode i

/-- The decoder answers a command exactly for the words whose RSV field [11:8] is 0 and whose OP
field [15:12] is one of the eight of the map (R82, R83, R84, R89). -/
def Obligations.ExactlyTheMappedWordsDecode : Prop :=
  ∀ w : Word16, (∃ i, decode w = .ok i) ↔ w.extractLsb' 8 4 = 0#4 ∧ w.extractLsb' 12 4 ∈ opcodes

/-- A word decodes to a command of a row of the opcode table exactly when its bits under the row's
mask are the row's match, and no word matches two rows (R82). -/
def Obligations.TableRowsSayWhatDecodes : Prop :=
  (∀ r ∈ opcodeTable, ∀ w : Word16,
    (∃ i, decode w = .ok i ∧ i.mnemonic = r.mnemonic) ↔ w &&& r.mask = r.value) ∧
  opcodeTable.Pairwise fun r q => ∀ w : Word16, ¬ (w &&& r.mask = r.value ∧ w &&& q.mask = q.value)

/-- Words written out from R80 and R82 decode to the commands they stand for: one of each family,
with an ignored field that is not 0 (R85), and a reserved word of each kind (R83, R84). -/
def Obligations.WrittenOutWordsDecode : Prop :=
  decode 0b0001000010100011#16 = .ok (.add 10 3) ∧
  decode 0b0010000000110101#16 = .ok (.sub 3 5) ∧
  decode 0b0100000001011111#16 = .ok (.inv 5 15) ∧
  decode 0b0110000000110101#16 = .ok (.sqrt 3 5) ∧
  decode 0b1000000011111111#16 = .ok (.synd 15 15) ∧
  decode 0b1001000000000000#16 = .ok (.decode 0 0) ∧
  decode 0b0111000000000000#16 = .error (.reservedOpcode 7#4) ∧
  decode 0b0001000100000000#16 = .error (.reservedField 1#4)

/-- The assembler: the word of each line, operands 11..15 included, an error for an operand above
15, and `.word` as written (R87). -/
def Obligations.AssemblerWords : Prop :=
  ∀ a b : Nat,
    (a ≤ 15 → b ≤ 15 →
      assemble (.add a b) = some (BitVec.ofNat 16 (0x1000 + 16 * a + b)) ∧
      assemble (.sub a b) = some (BitVec.ofNat 16 (0x2000 + 16 * a + b)) ∧
      assemble (.mul a b) = some (BitVec.ofNat 16 (0x3000 + 16 * a + b)) ∧
      assemble (.div a b) = some (BitVec.ofNat 16 (0x5000 + 16 * a + b))) ∧
    (a ≤ 15 →
      assemble (.inv a) = some (BitVec.ofNat 16 (0x4000 + 16 * a)) ∧
      assemble (.sqrt a) = some (BitVec.ofNat 16 (0x6000 + 16 * a))) ∧
    assemble .synd = some 0x8000#16 ∧ assemble .decode = some 0x9000#16 ∧
    (∀ w, assemble (.word w) = some w) ∧
    (15 < a ∨ 15 < b →
      assemble (.add a b) = none ∧ assemble (.sub a b) = none ∧ assemble (.mul a b) = none ∧
      assemble (.div a b) = none) ∧
    (15 < a → assemble (.inv a) = none ∧ assemble (.sqrt a) = none)

/-! ### The six field commands: encoding, result, frame and faults -/

/-- R112: ADD. -/
def Obligations.AddCommand : Prop :=
  ∀ a b : Nat, a ≤ 15 → b ≤ 15 →
    encode (.add a b) = BitVec.ofNat 16 (0x1000 + 16 * a + b) ∧
    ∀ (s : State) (p : Pending), s.phase = .busy p → p.op = 0x1#4 →
      (a ≤ 10 → b ≤ 10 → exec (.add a b) s = .next (fieldCommitted s 0x1#4 ((a + b) % 11))) ∧
      (10 < a ∨ 10 < b → exec (.add a b) s = .next (faultCommitted s 0x1#4 .range))

/-- R113: SUB. -/
def Obligations.SubCommand : Prop :=
  ∀ a b : Nat, a ≤ 15 → b ≤ 15 →
    encode (.sub a b) = BitVec.ofNat 16 (0x2000 + 16 * a + b) ∧
    ∀ (s : State) (p : Pending), s.phase = .busy p → p.op = 0x2#4 →
      (a ≤ 10 → b ≤ 10 →
        exec (.sub a b) s = .next (fieldCommitted s 0x2#4 (residue ((a : Int) - b)))) ∧
      (10 < a ∨ 10 < b → exec (.sub a b) s = .next (faultCommitted s 0x2#4 .range))

/-- R114: MUL. -/
def Obligations.MulCommand : Prop :=
  ∀ a b : Nat, a ≤ 15 → b ≤ 15 →
    encode (.mul a b) = BitVec.ofNat 16 (0x3000 + 16 * a + b) ∧
    ∀ (s : State) (p : Pending), s.phase = .busy p → p.op = 0x3#4 →
      (a ≤ 10 → b ≤ 10 → exec (.mul a b) s = .next (fieldCommitted s 0x3#4 ((a * b) % 11))) ∧
      (10 < a ∨ 10 < b → exec (.mul a b) s = .next (faultCommitted s 0x3#4 .range))

/-- R115: INV. The inverse is the unique v in 1..10 with a·v mod 11 = 1; B is ignored at every
value. -/
def Obligations.InvCommand : Prop :=
  ∀ a b : Nat, a ≤ 15 → b ≤ 15 →
    encode (.inv a b) = BitVec.ofNat 16 (0x4000 + 16 * a + b) ∧
    ∀ (s : State) (p : Pending), s.phase = .busy p → p.op = 0x4#4 →
      (1 ≤ a → a ≤ 10 → ∃ v, 1 ≤ v ∧ v ≤ 10 ∧ (a * v) % 11 = 1 ∧
        (∀ u, 1 ≤ u → u ≤ 10 → (a * u) % 11 = 1 → u = v) ∧
        exec (.inv a b) s = .next (fieldCommitted s 0x4#4 v)) ∧
      (a = 0 → exec (.inv a b) s = .next (faultCommitted s 0x4#4 .divByZero)) ∧
      (10 < a → exec (.inv a b) s = .next (faultCommitted s 0x4#4 .range))

/-- R116: DIV, a·inv(b) mod 11, with RANGE before DIV_BY_ZERO. -/
def Obligations.DivCommand : Prop :=
  ∀ a b : Nat, a ≤ 15 → b ≤ 15 →
    encode (.div a b) = BitVec.ofNat 16 (0x5000 + 16 * a + b) ∧
    ∀ (s : State) (p : Pending), s.phase = .busy p → p.op = 0x5#4 →
      (a ≤ 10 → 1 ≤ b → b ≤ 10 → ∃ v, 1 ≤ v ∧ v ≤ 10 ∧ (b * v) % 11 = 1 ∧
        exec (.div a b) s = .next (fieldCommitted s 0x5#4 ((a * v) % 11))) ∧
      (a ≤ 10 → b = 0 → exec (.div a b) s = .next (faultCommitted s 0x5#4 .divByZero)) ∧
      (10 < a ∨ 10 < b → exec (.div a b) s = .next (faultCommitted s 0x5#4 .range))

/-- R117: SQRT, the smaller of the roots; NON_RESIDUE exactly on {2,6,7,8,10}; B is ignored at
every value. -/
def Obligations.SqrtCommand : Prop :=
  ∀ a b : Nat, a ≤ 15 → b ≤ 15 →
    encode (.sqrt a b) = BitVec.ofNat 16 (0x6000 + 16 * a + b) ∧
    ∀ (s : State) (p : Pending), s.phase = .busy p → p.op = 0x6#4 →
      (a ∈ [0, 1, 3, 4, 5, 9] → ∃ r, r ≤ 5 ∧ (r * r) % 11 = a ∧
        (∀ q, q ≤ 10 → (q * q) % 11 = a → r ≤ q) ∧
        exec (.sqrt a b) s = .next (fieldCommitted s 0x6#4 r)) ∧
      (a ∈ [2, 6, 7, 8, 10] → exec (.sqrt a b) s = .next (faultCommitted s 0x6#4 .nonResidue)) ∧
      (10 < a → exec (.sqrt a b) s = .next (faultCommitted s 0x6#4 .range))

/-- R119: the laws of the field functions, over all operands. -/
def Obligations.FieldLaws : Prop :=
  (∀ a b : GF11, Gf.add a b = Gf.add b a ∧ Gf.mul a b = Gf.mul b a) ∧
  (∀ a b c : GF11, Gf.add (Gf.add a b) c = Gf.add a (Gf.add b c) ∧
    Gf.mul (Gf.mul a b) c = Gf.mul a (Gf.mul b c) ∧
    Gf.mul a (Gf.add b c) = Gf.add (Gf.mul a b) (Gf.mul a c)) ∧
  (∀ a b : GF11, Gf.sub (Gf.add a b) b = a) ∧
  (∀ a b : GF11, b ≠ 0 → Gf.div (Gf.mul a b) b = .ok a) ∧
  (∀ a : GF11, a ≠ 0 → ∃ v, Gf.inv a = .ok v ∧ Gf.mul a v = 1) ∧
  (∀ a ∈ ([0, 1, 3, 4, 5, 9] : List GF11), ∃ r, Gf.sqrt a = .ok r ∧ Gf.mul r r = a) ∧
  (∀ a ∈ ([2, 6, 7, 8, 10] : List GF11), ∀ x : GF11, Gf.mul x x ≠ a)

/-! ### SYND and the code -/

/-- R142: SYND writes SYN with the four syndromes of the snapshot, and nothing else but STATUS; a
symbol above 10 anywhere faults RANGE. A and B are ignored at every value. -/
def Obligations.SyndCommand : Prop :=
  ∀ a b : Nat, a ≤ 15 → b ≤ 15 →
    encode (.synd a b) = BitVec.ofNat 16 (0x8000 + 16 * a + b) ∧
    ∀ (s : State) (p : Pending), s.phase = .busy p → p.op = 0x8#4 →
      (InRange p.cw → exec (.synd a b) s =
        .next { s with
          syn := synWord p.cw, fault := none, cls := none, lastOp := 0x8#4, valid := true,
          phase := .idle }) ∧
      (¬ InRange p.cw → exec (.synd a b) s = .next (faultCommitted s 0x8#4 .range))

/-- R141: the transform is the product with the fixed 10×4 matrix of the rule's table. -/
def Obligations.SyndromeMatrix : Prop :=
  ∀ y : Codeword,
    (syndromesOf y).s1 = y[0] + y[1] + y[2] + y[3] + y[4] + y[5] + y[6] + y[7] + y[8] + y[9] ∧
    (syndromesOf y).s2 = y[0] + 2 * y[1] + 3 * y[2] + 4 * y[3] + 5 * y[4] + 6 * y[5] + 7 * y[6] +
      8 * y[7] + 9 * y[8] + 10 * y[9] ∧
    (syndromesOf y).s3 = y[0] + 4 * y[1] + 9 * y[2] + 5 * y[3] + 3 * y[4] + 3 * y[5] + 5 * y[6] +
      9 * y[7] + 4 * y[8] + y[9] ∧
    (syndromesOf y).s4 = y[0] + 8 * y[1] + 5 * y[2] + 9 * y[3] + 4 * y[4] + 7 * y[5] + 2 * y[6] +
      6 * y[7] + 3 * y[8] + 10 * y[9]

/-- R144: the transform is linear, so a code word plus an error pattern has the pattern's
syndromes, and a single error e at position X has S = (e, e·X, e·X², e·X³). -/
def Obligations.SyndromeLinearity : Prop :=
  (∀ y z w : Codeword, (∀ i : Fin 10, w[i] = y[i] + z[i]) →
    (syndromesOf w).s1 = (syndromesOf y).s1 + (syndromesOf z).s1 ∧
    (syndromesOf w).s2 = (syndromesOf y).s2 + (syndromesOf z).s2 ∧
    (syndromesOf w).s3 = (syndromesOf y).s3 + (syndromesOf z).s3 ∧
    (syndromesOf w).s4 = (syndromesOf y).s4 + (syndromesOf z).s4) ∧
  (∀ code e w : Codeword, syndromesOf code = ⟨0, 0, 0, 0⟩ → (∀ i : Fin 10, w[i] = code[i] + e[i]) →
    syndromesOf w = syndromesOf e) ∧
  (∀ (e : Codeword) (j : Fin 10), (∀ i : Fin 10, i ≠ j → e[i] = 0) →
    syndromesOf e = ⟨e[j], e[j] * element (j.val + 1), e[j] * element ((j.val + 1) ^ 2),
      e[j] * element ((j.val + 1) ^ 3)⟩)

/-- R143: no nonzero code word has weight 4 or less, one of weight 5 exists, and symbols 5..10
determine the code word: the minimum distance is 5 and the dimension is 6. -/
def Obligations.MinimumDistanceFive : Prop :=
  (∀ y : Codeword, syndromesOf y = ⟨0, 0, 0, 0⟩ → (∃ i : Fin 10, y[i] ≠ 0) →
    5 ≤ (Finset.univ.filter fun i : Fin 10 => y[i] ≠ 0).card) ∧
  (∃ y : Codeword, syndromesOf y = ⟨0, 0, 0, 0⟩ ∧
    (Finset.univ.filter fun i : Fin 10 => y[i] ≠ 0).card = 5) ∧
  (∀ u : Codeword, ∃! y : Codeword,
    syndromesOf y = ⟨0, 0, 0, 0⟩ ∧ ∀ i : Fin 10, 4 ≤ i.val → y[i] = u[i])

/-- R145: every syndrome vector is the syndrome of some word of field elements. -/
def Obligations.EverySyndromeReachable : Prop :=
  ∀ T : Syndromes, ∃ y : Codeword, syndromesOf y = T

/-! ### DECODE -/

/-- R165: case 1. The word is returned unchanged, and SYN, LOC and ERR are 0. -/
def Obligations.DecodeCaseZeroErrors : Prop :=
  ∀ (a b : Nat) (s : State) (p : Pending), s.phase = .busy p → p.op = 0x9#4 → InRange p.cw →
    ZeroSyndrome p.cw →
    exec (.decode a b) s =
      .next (decodeCommitted s (fun i => (p.cw[i]).toNat) 0#16 0#16 0#16 .zeroErrors)

/-- R166: case 2. DIV_BY_ZERO when S1 = 0, BAD_POSITION when S1 ≠ 0 and S2 = 0, else the position p
in 1..10 with p·S1 = S2 is corrected by the magnitude S1; LOC is 0. -/
def Obligations.DecodeCaseOneError : Prop :=
  ∀ (a b : Nat) (s : State) (p : Pending), s.phase = .busy p → p.op = 0x9#4 → InRange p.cw →
    ¬ ZeroSyndrome p.cw → ZeroLocator p.cw →
    (synOf p.cw 1 = 0 → exec (.decode a b) s = .next (faultCommitted s 0x9#4 .divByZero)) ∧
    (synOf p.cw 1 ≠ 0 → synOf p.cw 2 = 0 →
      exec (.decode a b) s = .next (faultCommitted s 0x9#4 .badPosition)) ∧
    (synOf p.cw 1 ≠ 0 → synOf p.cw 2 ≠ 0 →
      ∃ pos, 1 ≤ pos ∧ pos ≤ 10 ∧ (pos * synOf p.cw 1) % 11 = synOf p.cw 2 ∧
      exec (.decode a b) s =
        .next (decodeCommitted s (corrected (fun i => (p.cw[i]).toNat) pos (synOf p.cw 1))
          (synWord p.cw) 0#16 (word pos (synOf p.cw 1) 0 0) .oneError))

/-- R167 with R171: case 3 never faults. The positions are distinct, in 1..10, and solve the closed
form with the smaller root r of D; the magnitudes are in 1..10 and solve theirs; both positions are
corrected. -/
def Obligations.DecodeCaseTwoErrors : Prop :=
  ∀ (a b : Nat) (s : State) (p : Pending), s.phase = .busy p → p.op = 0x9#4 → InRange p.cw →
    ¬ ZeroSyndrome p.cw → TwoErrorLocator p.cw →
    ∃ r pos1 mag1 pos2 mag2 : Nat, 1 ≤ r ∧ r ≤ 5 ∧ (r * r) % 11 = dOf p.cw ∧
      1 ≤ pos1 ∧ pos1 ≤ 10 ∧ 1 ≤ pos2 ∧ pos2 ≤ 10 ∧ pos1 ≠ pos2 ∧
      1 ≤ mag1 ∧ mag1 ≤ 10 ∧ 1 ≤ mag2 ∧ mag2 ≤ 10 ∧
      ((pos2 : Int) * (2 * pOf p.cw) - (-(qOf p.cw : Int) - r)) % 11 = 0 ∧
      ((pos1 : Int) * (2 * pOf p.cw) - (-(qOf p.cw : Int) + r)) % 11 = 0 ∧
      ((mag2 : Int) * (pos1 - pos2) - (pos1 * synOf p.cw 1 - synOf p.cw 2)) % 11 = 0 ∧
      ((mag1 : Int) - (synOf p.cw 1 - mag2)) % 11 = 0 ∧
      exec (.decode a b) s =
        .next (decodeCommitted s
          (corrected (corrected (fun i => (p.cw[i]).toNat) pos1 mag1) pos2 mag2)
          (synWord p.cw) (locWord p.cw) (word pos1 mag1 pos2 mag2) .twoErrors)

/-- R168: case 4. The word is returned unchanged, with ERR 0 and no fault. -/
def Obligations.DecodeCaseUncorrectable : Prop :=
  ∀ (a b : Nat) (s : State) (p : Pending), s.phase = .busy p → p.op = 0x9#4 → InRange p.cw →
    ¬ ZeroSyndrome p.cw → ¬ ZeroLocator p.cw → ¬ TwoErrorLocator p.cw →
    exec (.decode a b) s =
      .next (decodeCommitted s (fun i => (p.cw[i]).toNat) (synWord p.cw) (locWord p.cw) 0#16
        .uncorrectable)

/-- R172: a code word with at most two symbol errors added is decoded to the code word, with the
class of the weight and exactly the error pairs. -/
def Obligations.CorrectsUpToTwoErrors : Prop :=
  ∀ (a b : Nat) (s : State) (p : Pending) (code : SymbolWord), s.phase = .busy p →
    p.op = 0x9#4 → InRange code → ZeroSyndrome code →
    (p.cw = code → ∃ t, exec (.decode a b) s = .next t ∧ t.fault = none ∧
      t.cls = some .zeroErrors ∧ t.cwOut = code ∧ t.err = 0#16) ∧
    (∀ (x : Fin 10) (e : Nat), 1 ≤ e → e ≤ 10 →
      (∀ i : Fin 10, (p.cw[i]).toNat =
        if i = x then ((code[i]).toNat + e) % 11 else (code[i]).toNat) →
      ∃ t, exec (.decode a b) s = .next t ∧ t.fault = none ∧ t.cls = some .oneError ∧
        t.cwOut = code ∧ t.err = word (x.val + 1) e 0 0) ∧
    (∀ (x1 x2 : Fin 10) (e1 e2 : Nat), x1 ≠ x2 → 1 ≤ e1 → e1 ≤ 10 → 1 ≤ e2 → e2 ≤ 10 →
      (∀ i : Fin 10, (p.cw[i]).toNat =
        if i = x1 then ((code[i]).toNat + e1) % 11
        else if i = x2 then ((code[i]).toNat + e2) % 11 else (code[i]).toNat) →
      ∃ t, exec (.decode a b) s = .next t ∧ t.fault = none ∧ t.cls = some .twoErrors ∧
        t.cwOut = code ∧ (t.err = word (x1.val + 1) e1 (x2.val + 1) e2 ∨
          t.err = word (x2.val + 1) e2 (x1.val + 1) e1))

/-- R173: which syndromes have which outcome, and how many. The zero syndrome is ZERO_ERRORS, the
syndromes of the single and of the double errors are ONE_ERROR and TWO_ERRORS, (0,0,0,s) faults
DIV_BY_ZERO, (s,0,0,0) faults BAD_POSITION, and every other one is UNCORRECTABLE. A fault needs at
least four errors. -/
def Obligations.OutcomeOfEverySyndrome : Prop :=
  (∀ T : Syndromes,
    (diagnose T = .ok .zeroErrors ↔ T = ⟨0, 0, 0, 0⟩) ∧
    ((∃ x e, diagnose T = .ok (.oneError x e)) ↔
      ∃ x e : GF11, x ≠ 0 ∧ e ≠ 0 ∧ T = ⟨e, e * x, e * (x * x), e * (x * x * x)⟩) ∧
    ((∃ x1 e1 x2 e2, diagnose T = .ok (.twoErrors x1 e1 x2 e2)) ↔
      ∃ x1 e1 x2 e2 : GF11, x1 ≠ 0 ∧ x2 ≠ 0 ∧ x1 ≠ x2 ∧ e1 ≠ 0 ∧ e2 ≠ 0 ∧
        T = ⟨e1 + e2, e1 * x1 + e2 * x2, e1 * (x1 * x1) + e2 * (x2 * x2),
          e1 * (x1 * x1 * x1) + e2 * (x2 * x2 * x2)⟩) ∧
    (diagnose T = .error .divByZero ↔ T.s1 = 0 ∧ T.s2 = 0 ∧ T.s3 = 0 ∧ T.s4 ≠ 0) ∧
    (diagnose T = .error .badPosition ↔ T.s1 ≠ 0 ∧ T.s2 = 0 ∧ T.s3 = 0 ∧ T.s4 = 0) ∧
    ((∃ c, diagnose T = .error c) →
      diagnose T = .error .divByZero ∨ diagnose T = .error .badPosition)) ∧
  allSyndromes.countP (fun T => diagnose T = .ok .zeroErrors) = 1 ∧
  allSyndromes.countP (fun T => (diagnose T).toOption.map Diagnosis.cls = some .oneError) = 100 ∧
  allSyndromes.countP (fun T => (diagnose T).toOption.map Diagnosis.cls = some .twoErrors) = 4500 ∧
  allSyndromes.countP (fun T => diagnose T = .ok .uncorrectable) = 10020 ∧
  allSyndromes.countP (fun T => diagnose T = .error .divByZero) = 10 ∧
  allSyndromes.countP (fun T => diagnose T = .error .badPosition) = 10 ∧
  (∀ code e w : Codeword, syndromesOf code = ⟨0, 0, 0, 0⟩ →
    (∀ i : Fin 10, w[i] = code[i] + e[i]) →
    (Finset.univ.filter fun i : Fin 10 => e[i] ≠ 0).card ≤ 3 →
    ∃ d, diagnose (syndromesOf w) = .ok d)

/-- R174: with the other root of D the two error pairs change places, and class and corrected word
are the same. -/
def Obligations.RootChoiceOnlySwapsPairs : Prop :=
  ∀ T : Syndromes,
    (∀ x1 e1 x2 e2, diagnoseWith .smaller T = .ok (.twoErrors x1 e1 x2 e2) →
      diagnoseWith .larger T = .ok (.twoErrors x2 e2 x1 e1) ∧
      ∀ y : Codeword, Diagnosis.correct y (.twoErrors x1 e1 x2 e2) =
        Diagnosis.correct y (.twoErrors x2 e2 x1 e1)) ∧
    ((∀ x1 e1 x2 e2, diagnoseWith .smaller T ≠ .ok (.twoErrors x1 e1 x2 e2)) →
      diagnoseWith .larger T = diagnoseWith .smaller T)

/-- R175: decoding the output word of a DECODE again finds no error in it, unless the word was
uncorrectable, which it is again; the word is unchanged either way. -/
def Obligations.DecodingTheOutputAgain : Prop :=
  ∀ (a b a' b' : Nat) (s s' t : State) (p' : Pending), exec (.decode a b) s = .next t →
    t.fault = none → s'.phase = .busy p' → p'.cw = t.cwOut →
    ∃ t', exec (.decode a' b') s' = .next t' ∧ t'.fault = none ∧ t'.cwOut = t.cwOut ∧
      t'.err = 0#16 ∧
      t'.cls = (if t.cls = some .uncorrectable then some .uncorrectable else some .zeroErrors)

/-- R176: after a DECODE without a fault every symbol of CW_OUT is in 0..10, every position that ERR
does not name holds the input's symbol, and CW_IN is not modified. -/
def Obligations.DecodeOutputWord : Prop :=
  ∀ (a b : Nat) (s t : State) (p : Pending), s.phase = .busy p →
    exec (.decode a b) s = .next t → t.fault = none →
    InRange t.cwOut ∧
    (∀ i : Fin 10, (t.err.extractLsb' 0 4).toNat ≠ i.val + 1 →
      (t.err.extractLsb' 8 4).toNat ≠ i.val + 1 → t.cwOut[i] = p.cw[i]) ∧
    t.cwIn0 = s.cwIn0 ∧ t.cwIn1 = s.cwIn1 ∧ t.cwIn2 = s.cwIn2

/-! ### Commits, faults and frames -/

/-- R41, R42: what a commit writes depends on the pending snapshot alone. Two states with the same
snapshot, whatever CMD, CW_IN and every result register hold, either both fault with the same code
or both succeed with the same class and the same written registers. -/
def Obligations.CommitReadsOnlyTheSnapshot : Prop :=
  ∀ (i : Instr) (s1 s2 : State) (p : Pending), s1.phase = .busy p → s2.phase = .busy p →
    ∃ t1 t2, exec i s1 = .next t1 ∧ exec i s2 = .next t2 ∧
      t1.fault = t2.fault ∧ t1.cls = t2.cls ∧ t1.lastOp = t2.lastOp ∧
      (t1.fault = none →
        (IsFieldCommand i → t1.result = t2.result) ∧
        (UsesWord i → t1.syn = t2.syn) ∧
        ((∃ a b, i = .decode a b) → t1.cwOut0 = t2.cwOut0 ∧ t1.cwOut1 = t2.cwOut1 ∧
          t1.cwOut2 = t2.cwOut2 ∧ t1.loc = t2.loc ∧ t1.err = t2.err))

/-- R48: a command writes no register but the ones its family names and the STATUS fields of a
commit: every command leaves CMD, CW_IN and OVR, SYND and DECODE leave RESULT, only DECODE writes
CW_OUT, LOC and ERR, and a field command leaves SYN. -/
def Obligations.CommandFrame : Prop :=
  ∀ (i : Instr) (s t : State), exec i s = .next t →
    t.cmd = s.cmd ∧ t.ovr = s.ovr ∧ t.cwIn0 = s.cwIn0 ∧ t.cwIn1 = s.cwIn1 ∧ t.cwIn2 = s.cwIn2 ∧
    t.schedule = s.schedule ∧ t.reads = s.reads ∧
    (UsesWord i → t.result = s.result) ∧
    (IsFieldCommand i → t.syn = s.syn) ∧
    ((∀ a b, i ≠ .decode a b) → t.cwOut0 = s.cwOut0 ∧ t.cwOut1 = s.cwOut1 ∧
      t.cwOut2 = s.cwOut2 ∧ t.loc = s.loc ∧ t.err = s.err ∧ t.cls = none)

/-- R208: a commit that records a fault, of any command and of any pending word, is the state before
it but for the STATUS fields: FAULT, the sticky bit, CLASS = NONE, LAST_OP, VALID, and PHASE = IDLE. -/
def Obligations.FaultsArePrecise : Prop :=
  ∀ (s t : State) (p : Pending) (c : CmdFault), s.phase = .busy p →
    (engineTurn s = .next t ∨ ∃ i, exec i s = .next t) → t.fault = some c →
    t = faultCommitted s p.op c

/-- R209: a commit without a fault sets LAST_OP, VALID and PHASE, writes CLASS, which is NONE unless
the command is DECODE, and leaves FSTICKY and OVR. -/
def Obligations.SuccessfulCommitStatus : Prop :=
  ∀ (i : Instr) (s t : State) (p : Pending), s.phase = .busy p → exec i s = .next t →
    t.fault = none →
    t.lastOp = p.op ∧ t.valid = true ∧ t.phase = .idle ∧ t.fsticky = s.fsticky ∧ t.ovr = s.ovr ∧
    (t.cls = none ↔ ∀ a b, i ≠ .decode a b)

/-- R206: the commit of an accepted word whose OP is reserved or whose RSV is not 0 faults
ILLEGAL_OP, and of no other word. -/
def Obligations.IllegalWordsFault : Prop :=
  ∀ (s : State) (p : Pending), s.phase = .busy p → nextEvent s = .engine →
    ((p.op ∈ reservedOps ∨ p.rsv ≠ 0#4) →
      step s = .next (faultCommitted { s with schedule := s.schedule.tail } p.op .illegalOp)) ∧
    (∀ t, step s = .next t → t.fault = some .illegalOp → p.op ∈ reservedOps ∨ p.rsv ≠ 0#4)

/-- R205: RANGE is raised exactly when a used operand, or any symbol of the snapshot of a SYND or
DECODE, is greater than 10. -/
def Obligations.RangeFaultCause : Prop :=
  ∀ (i : Instr) (s : State) (p : Pending), s.phase = .busy p →
    (OutOfRange i p ↔ exec i s = .next (faultCommitted s p.op .range))

/-- R202: DIV_BY_ZERO is raised exactly by INV with a = 0, by DIV with b = 0, and by DECODE of a
word whose syndrome is (0,0,0,s) with s ≠ 0, when no used operand or symbol is out of range. -/
def Obligations.DivByZeroCause : Prop :=
  ∀ (i : Instr) (s : State) (p : Pending), s.phase = .busy p →
    (exec i s = .next (faultCommitted s p.op .divByZero) ↔
      ¬ OutOfRange i p ∧
        ((∃ b, i = .inv 0 b) ∨ (∃ a, i = .div a 0) ∨
          ((∃ a b, i = .decode a b) ∧ synOf p.cw 1 = 0 ∧ synOf p.cw 2 = 0 ∧ synOf p.cw 3 = 0 ∧
            synOf p.cw 4 ≠ 0)))

/-- R203: NON_RESIDUE is raised exactly by SQRT of a non-residue; DECODE never raises it. -/
def Obligations.NonResidueCause : Prop :=
  ∀ (i : Instr) (s : State) (p : Pending), s.phase = .busy p →
    (exec i s = .next (faultCommitted s p.op .nonResidue) ↔
      ∃ a b, i = .sqrt a b ∧ a ∈ [2, 6, 7, 8, 10])

/-- R204: BAD_POSITION is raised exactly by DECODE of a word in range whose syndrome is (s,0,0,0)
with s ≠ 0. -/
def Obligations.BadPositionCause : Prop :=
  ∀ (i : Instr) (s : State) (p : Pending), s.phase = .busy p →
    (exec i s = .next (faultCommitted s p.op .badPosition) ↔
      (∃ a b, i = .decode a b) ∧ InRange p.cw ∧
        synOf p.cw 1 ≠ 0 ∧ synOf p.cw 2 = 0 ∧ synOf p.cw 3 = 0 ∧ synOf p.cw 4 = 0)

/-- R207: the priority of the fault causes, at the commit of any pending word: ILLEGAL_OP first, then
RANGE, then the operation's own fault, which is one of three. -/
def Obligations.FaultPriority : Prop :=
  ∀ (s : State) (p : Pending), s.phase = .busy p → nextEvent s = .engine →
    ∃ t, step s = .next t ∧
      ((∃ e, p.decode = .error e) → t.fault = some .illegalOp) ∧
      (∀ i, p.decode = .ok i → OutOfRange i p → t.fault = some .range) ∧
      (∀ i, p.decode = .ok i → ¬ OutOfRange i p →
        t.fault ∈ [none, some .divByZero, some .nonResidue, some .badPosition])

/-! ### The step -/

/-- An engine event runs the command that the pending word decodes to (R47, R89). The other two clauses
rest on the model's choices: with nothing scheduled the engine has its turn, so the command runs then
too (log entries 1 and 11), and `withFetchWord` places a word that the very next step runs, by an
accepted write and an engine turn (log entry 4). -/
def Obligations.StepRunsTheDecodedCommand : Prop :=
  (∀ (s : State) (p : Pending) (i : Instr), s.phase = .busy p → p.decode = .ok i →
    (∀ rest, s.schedule = .engine :: rest → step s = exec i { s with schedule := rest }) ∧
    (s.schedule = [] → step s = exec i s)) ∧
  (∀ (s : State) (w : Word16) (i : Instr), decode w = .ok i →
    step (s.withFetchWord 16 w.toNat) = exec i (s.accept w))

/-- While PHASE = IDLE the engine has no step: its turn changes nothing of the block, and no command
executes (R47). With nothing scheduled the block waits, and `exec` stops with a fault of its own;
these two are the model's conventions (log entries 1 and 3). -/
def Obligations.IdleEngineHasNoStep : Prop :=
  ∀ s : State, s.phase = .idle →
    (∀ rest, s.schedule = .engine :: rest → step s = .next { s with schedule := rest }) ∧
    (s.schedule = [] → step s = .next s) ∧
    (∀ i : Instr, exec i s = .fault .noPendingCommand)

/-- No fault of a command stops the block: the engine goes on after it (R200, R47). The statement is
about every step from every state. That an IDLE block answers a next state at an engine event and
with nothing scheduled, where R47 gives the engine no step, is the model's choice (log entry 1). -/
def Obligations.NoStepStops : Prop :=
  ∀ s : State, ∃ t, step s = .next t

/-! ### The host's register port and reset -/

/-- R23, R39, R44: a read returns the register at the index, 0 for a reserved index, and changes no
state of the block; the model hands the value to the host (log entry 2). -/
def Obligations.ReadReturnsTheRegister : Prop :=
  ∀ (s : State) (idx : RegIdx) (rest : List Event),
    s.schedule = .host (.read idx) :: rest →
    step s = .next { s with
      schedule := rest,
      reads := ⟨idx,
        [s.cmd, s.statusWord, s.result, s.cwIn0, s.cwIn1, s.cwIn2, s.cwOut0, s.cwOut1, s.cwOut2,
          s.syn, s.loc, s.err, 0#16, 0#16, 0#16, 0#16].getD idx.toNat 0#16⟩ :: s.reads }

/-- R25, R26, R29, R31: the STATUS word's fields, BUSY being 1 exactly when PHASE = BUSY, with the
fault and class codes, which never leave 0..5 and 0..4, and reserved bits 0. -/
def Obligations.StatusWordFields : Prop :=
  ∀ s : State,
    (s.statusWord.getLsbD 0 = true ↔ ∃ p, s.phase = .busy p) ∧
    s.statusWord.getLsbD 1 = s.valid ∧ s.statusWord.getLsbD 2 = s.ovr ∧
    s.statusWord.getLsbD 3 = false ∧
    (s.statusWord.extractLsb' 4 3).toNat = (match s.fault with
      | none => 0
      | some .divByZero => 1
      | some .nonResidue => 2
      | some .badPosition => 3
      | some .range => 4
      | some .illegalOp => 5) ∧
    s.statusWord.getLsbD 7 = s.fsticky ∧
    (s.statusWord.extractLsb' 8 3).toNat = (match s.cls with
      | none => 0
      | some .zeroErrors => 1
      | some .oneError => 2
      | some .twoErrors => 3
      | some .uncorrectable => 4) ∧
    s.statusWord.getLsbD 11 = false ∧ s.statusWord.extractLsb' 12 4 = s.lastOp

/-- R46: a write to CMD is accepted while BUSY = 0, taking the word's fields and CW_IN into PEND with
no check, and is dropped with OVR set while BUSY = 1. -/
def Obligations.CommandIssue : Prop :=
  ∀ (s : State) (v : Word16) (rest : List Event), s.schedule = .host (.write 0x0#4 v) :: rest →
    (s.phase = .idle →
      step s = .next { s with
        schedule := rest, cmd := v,
        phase := .busy {
          op := v.extractLsb' 12 4, rsv := v.extractLsb' 8 4, a := v.extractLsb' 4 4,
          b := v.extractLsb' 0 4, cw := s.cwIn } }) ∧
    (∀ p, s.phase = .busy p → step s = .next { s with schedule := rest, ovr := true })

/-- R39, R45: a write to a read-only register or a reserved index changes nothing; a write to CW_IN
stores, bits [15:8] of CW_IN2 discarded, whatever PHASE is. -/
def Obligations.PlainRegisterWrites : Prop :=
  ∀ (s : State) (idx : RegIdx) (v : Word16) (rest : List Event),
    s.schedule = .host (.write idx v) :: rest →
    (idx ∈ [0x1#4, 0x2#4, 0x6#4, 0x7#4, 0x8#4, 0x9#4, 0xA#4, 0xB#4, 0xC#4, 0xD#4, 0xE#4, 0xF#4] →
      step s = .next { s with schedule := rest }) ∧
    (idx = 0x3#4 → step s = .next { s with schedule := rest, cwIn0 := v }) ∧
    (idx = 0x4#4 → step s = .next { s with schedule := rest, cwIn1 := v }) ∧
    (idx = 0x5#4 →
      step s = .next { s with schedule := rest, cwIn2 := BitVec.ofNat 16 (v.toNat % 256) })

/-- R63: position i of the input and of the output word lies in register base + (i−1)/4 at bits
[4·((i−1) mod 4) + 3 : 4·((i−1) mod 4)], with base 0x3 for CW_IN and 0x6 for CW_OUT. -/
def Obligations.SymbolPacking : Prop :=
  ∀ (s : State) (i : Nat) (h : 1 ≤ i ∧ i ≤ 10),
    s.cwIn[i - 1] =
      (s.regRead (BitVec.ofNat 4 (0x3 + (i - 1) / 4))).extractLsb' (4 * ((i - 1) % 4)) 4 ∧
    s.cwOut[i - 1] =
      (s.regRead (BitVec.ofNat 4 (0x6 + (i - 1) / 4))).extractLsb' (4 * ((i - 1) % 4)) 4

/-- A cycle with rst = 1 puts every register to 0x0000 and PHASE to IDLE and discards PEND; a write in
that cycle is ignored and a read returns the reset value (R230). That the events to come and the
values already read are left, and that the read's value joins a list, is the model's choice (log
entries 15 and 2). -/
def Obligations.ResetCycle : Prop :=
  ∀ (s : State) (a : Option Access) (rest : List Event), s.schedule = .reset a :: rest →
    (∀ idx, a = some (.read idx) →
      step s = .next { State.reset with schedule := rest, reads := ⟨idx, 0#16⟩ :: s.reads }) ∧
    ((∀ idx, a ≠ some (.read idx)) →
      step s = .next { State.reset with schedule := rest, reads := s.reads })

/-- R230: in the reset state every register index reads 0x0000 and PHASE is IDLE. -/
def Obligations.ResetStateReadsZero : Prop :=
  State.reset.phase = .idle ∧ ∀ idx : RegIdx, State.reset.regRead idx = 0#16

/-! ### Rules over whole runs -/

/-- R26: STATUS.BUSY is 1 exactly when PHASE = BUSY; it is set by an accepted write to CMD, cleared by
a commit and by reset, and changed by no other event. -/
def Obligations.BusyBit : Prop :=
  (∀ s : State, s.statusWord.getLsbD 0 = true ↔ ∃ p, s.phase = .busy p) ∧
  ∀ s t : State, step s = .next t →
    (t.statusWord.getLsbD 0 = true ↔
      ¬ ResetNext s ∧ nextEvent s ≠ .engine ∧ (s.statusWord.getLsbD 0 = true ∨ CmdWriteNext s))

/-- R27: VALID is 0 after reset and set by the first commit, only reset clears it, and while it is 0
every result register holds its reset value, in every state of the invariant. -/
def Obligations.ValidBit : Prop :=
  State.reset.valid = false ∧
  (∀ s t : State, step s = .next t →
    (t.valid = true ↔ ¬ ResetNext s ∧
      (s.valid = true ∨ (nextEvent s = .engine ∧ ∃ p, s.phase = .busy p)))) ∧
  (∀ s : State, s.Inv → s.valid = false →
    s.result = 0#16 ∧ s.cwOut0 = 0#16 ∧ s.cwOut1 = 0#16 ∧ s.cwOut2 = 0#16 ∧ s.syn = 0#16 ∧
      s.loc = 0#16 ∧ s.err = 0#16)

/-- R28: OVR is 0 after reset, a write to CMD while BUSY = 1 sets it, only reset clears it, and no
commit changes it. -/
def Obligations.OverrunBit : Prop :=
  State.reset.ovr = false ∧
  ∀ s t : State, step s = .next t →
    (t.ovr = true ↔ ¬ ResetNext s ∧ (s.ovr = true ∨ (CmdWriteNext s ∧ ∃ p, s.phase = .busy p)))

/-- R30: FSTICKY is 0 after reset, every commit with a fault sets it, and only reset clears it. -/
def Obligations.FaultStickyBit : Prop :=
  State.reset.fsticky = false ∧
  ∀ s t : State, step s = .next t →
    (t.fsticky = true ↔ ¬ ResetNext s ∧ (s.fsticky = true ∨
      (nextEvent s = .engine ∧ (∃ p, s.phase = .busy p) ∧ t.fault ≠ none)))

/-- R65, R71: while a command is pending, no sequence of host accesses changes the pending command,
CMD, a result register, or a STATUS field other than OVR, which a write to CMD among them sets. Every
read among them is answered: of a result register with the value from before the accesses, and of
STATUS with BUSY = 1 and the fields from before them, where only OVR can have been set since. That
the values read stand in a list, the newest first, is the model's choice (log entry 2). -/
def Obligations.PendingCommandUndisturbed : Prop :=
  ∀ (accs : List Access) (rest : List Event) (s : State) (p : Pending), s.phase = .busy p →
    s.schedule = accs.map .host ++ rest →
    ∃ t, After accs.length s t ∧ t.schedule = rest ∧ t.phase = .busy p ∧ t.cmd = s.cmd ∧
      t.valid = s.valid ∧ t.fault = s.fault ∧ t.fsticky = s.fsticky ∧ t.cls = s.cls ∧
      t.lastOp = s.lastOp ∧ t.result = s.result ∧ t.cwOut0 = s.cwOut0 ∧ t.cwOut1 = s.cwOut1 ∧
      t.cwOut2 = s.cwOut2 ∧ t.syn = s.syn ∧ t.loc = s.loc ∧ t.err = s.err ∧
      (t.ovr = true ↔ s.ovr = true ∨ ∃ v, Access.write 0x0#4 v ∈ accs) ∧
      ∃ given : List ReadReturn, t.reads = given ++ s.reads ∧
        given.reverse.map ReadReturn.idx = readIndices accs ∧
        ∀ r ∈ given,
          (∀ reg ∈ resultRegisters s, r.idx = reg.1 → r.value = reg.2) ∧
          (r.idx = 0x1#4 → r.value.getLsbD 0 = true ∧
            (r.value = s.statusWord ∨ r.value = s.statusWord ||| 0x0004#16))

/-- R74, R237: a write to CW_IN after the accept does not affect the pending command: writing before
the commit or after it ends in the same state, with the value stored. -/
def Obligations.InputWriteCommutesWithCommit : Prop :=
  ∀ (s : State) (p : Pending) (idx : RegIdx) (v : Word16) (rest : List Event), s.phase = .busy p →
    idx ∈ [0x3#4, 0x4#4, 0x5#4] →
    ∃ t, After 2 { s with schedule := .host (.write idx v) :: .engine :: rest } t ∧
      After 2 { s with schedule := .engine :: .host (.write idx v) :: rest } t ∧
      (idx = 0x3#4 → t.cwIn0 = v) ∧ (idx = 0x4#4 → t.cwIn1 = v) ∧
      (idx = 0x5#4 → t.cwIn2 = BitVec.ofNat 16 (v.toNat % 256))

/-- A cycle in which the engine commits (R238). A write to CMD in it is dropped and sets OVR and the
commit proceeds; a read returns the value from before the commit; a write to CW_IN leaves the commit
unaffected. For the write to CW_IN the spec gives no order: `Cycle.events` puts it before the commit
(log entry 9), and the clause says that the other order ends in the same state. That the value read
stands in a list is the model's choice (log entry 2). -/
def Obligations.SameCycleCollision : Prop :=
  ∀ (s t0 : State) (p : Pending) (rest : List Event), s.phase = .busy p → s.schedule = rest →
    engineTurn s = .next t0 →
    (∀ v, After 2
      { s with schedule := (Cycle.mk false (some (.write 0x0#4 v)) true).events ++ rest }
      { t0 with ovr := true }) ∧
    (∀ idx v, idx ∈ [0x3#4, 0x4#4, 0x5#4] →
      After 2 { s with schedule := (Cycle.mk false (some (.write idx v)) true).events ++ rest }
        (t0.regWrite idx v) ∧
      After 2 { s with schedule := .engine :: .host (.write idx v) :: rest }
        (t0.regWrite idx v)) ∧
    (∀ idx, After 2
      { s with schedule := (Cycle.mk false (some (.read idx)) true).events ++ rest }
      { t0 with reads := ⟨idx, s.regRead idx⟩ :: s.reads })

/-- R70: with no reset, a pending command whose BUSY bit is found 0 has had its commit: the events in
between hold an engine turn, and everything before the first one was done with that command still
pending. -/
def Obligations.PollingFindsTheCommit : Prop :=
  ∀ (evs rest : List Event) (s t : State) (p : Pending), s.phase = .busy p →
    s.schedule = evs ++ rest → NoReset evs → After evs.length s t →
    t.statusWord.getLsbD 0 = false →
    ∃ pre post u, evs = pre ++ .engine :: post ∧ .engine ∉ pre ∧ After pre.length s u ∧
      u.phase = .busy p

/-- Progress (R241, R47): a pending command stays pending until the engine's turn or a reset, one of
which is next after at most the events left, and with no reset among them it is the engine's turn;
that step is the commit, of the command the word decodes to or of its ILLEGAL_OP. In every state the
block is IDLE at the latest one step after the outside world's events are over. The spec asks for weak
fairness; that the schedule is finite and that the engine has its turn at its end is the model's reading (log
entry 11, DEDUCED), and the bound counts the model's events (log entry 1), not cycles. -/
def Obligations.EveryCommandCommits : Prop :=
  (∀ (s : State) (p : Pending), s.phase = .busy p →
    ∃ k u, k ≤ s.schedule.length ∧ After k s u ∧ u.phase = .busy p ∧
      u.schedule = s.schedule.drop k ∧
      (nextEvent u = .engine ∨ ResetNext u) ∧ (NoReset s.schedule → nextEvent u = .engine) ∧
      (nextEvent u = .engine →
        (∀ i, p.decode = .ok i → step u = exec i { u with schedule := u.schedule.tail }) ∧
        (∀ e, p.decode = .error e → step u =
          .next (faultCommitted { u with schedule := u.schedule.tail } p.op .illegalOp)) ∧
        ∃ t, step u = .next t ∧ t.phase = .idle ∧ t.valid = true ∧ t.lastOp = p.op)) ∧
  ∀ s : State, ∃ t, After (s.schedule.length + 1) s t ∧ t.phase = .idle ∧ t.schedule = []

/-- The reset state meets the invariant (R43, R230). -/
def Obligations.InvariantAtReset : Prop := State.reset.Inv

/-- R43 with the rules of the registers: every step from a state of the invariant, whatever the host
does next, leads to a state of the invariant. -/
def Obligations.InvariantKeptByStep : Prop :=
  ∀ s t : State, s.Inv → step s = .next t → t.Inv
end

