-- ==== Sys2Proof/Laws/Field.lean ====
section
/-! SUPPORT. The field functions: their tables, and their agreement with the library's arithmetic
modulo 11. -/

namespace Sys2Proof.Laws

open Sys2Proof.Machine

/-- The integers modulo 11 behind R110: `mod11` is the residue. -/
theorem mod11_val (x : Int) : ((Gf.mod11 x).val : Int) = x % 11 := by
  have := Int.emod_nonneg x (show (11 : Int) ≠ 0 by decide)
  simp [Gf.mod11, Int.toNat_of_nonneg this]

/-- `mod11` of a natural number is its residue. -/
theorem mod11_natCast (n : Nat) : (Gf.mod11 (n : Int)).val = n % 11 := by
  have := mod11_val (n : Int)
  omega

/-- `add` is addition of `Fin 11`. -/
@[simp] theorem gf_add_eq (a b : GF11) : Gf.add a b = a + b := by
  revert a b; decide

/-- `sub` is subtraction of `Fin 11`. -/
@[simp] theorem gf_sub_eq (a b : GF11) : Gf.sub a b = a - b := by
  revert a b; decide

/-- `mul` is multiplication of `Fin 11`. -/
@[simp] theorem gf_mul_eq (a b : GF11) : Gf.mul a b = a * b := by
  revert a b; decide

/-- The difference as an integer residue (R12, R113). -/
theorem gf_sub_val (a b : GF11) : ((Gf.sub a b).val : Int) = ((a.val : Int) - b.val) % 11 :=
  mod11_val _

/-- The table of R115, entry 0 where INV faults. -/
def invTable : List GF11 := [0, 1, 6, 4, 3, 9, 2, 8, 7, 5, 10]

/-- The table of R117, `none` where SQRT faults. -/
def sqrtTable : List (Option GF11) :=
  [some 0, some 1, none, some 5, some 2, some 4, none, none, none, some 3, none]

/-- `inv` is the table of R115. -/
theorem gf_inv_table (a : GF11) :
    Gf.inv a = if a = 0 then .error .divByZero else .ok (invTable.getD a.val 0) := by
  revert a; decide

/-- `div` by the table of R115. -/
theorem gf_div_table (a b : GF11) :
    Gf.div a b = if b = 0 then .error .divByZero else .ok (a * invTable.getD b.val 0) := by
  by_cases hb : b = 0 <;> simp [Gf.div, gf_inv_table, hb]

/-- `sqrt` is the table of R117. -/
theorem gf_sqrt_table (a : GF11) :
    Gf.sqrt a = match sqrtTable.getD a.val none with
      | some r => .ok r
      | none => .error .nonResidue := by
  revert a; decide

/-- `inv(a)` is the one element whose product with `a` is 1 (R115). -/
theorem gf_inv_ok_iff (a v : GF11) : Gf.inv a = .ok v ↔ a * v = 1 := by
  revert a v; decide

/-- `inv` fails only on 0, and only with DIV_BY_ZERO (R202). -/
theorem gf_inv_error_iff (a : GF11) (c : CmdFault) :
    Gf.inv a = .error c ↔ a = 0 ∧ c = .divByZero := by
  rw [gf_inv_table]
  split <;> simp_all [eq_comm]

/-- `div` fails only on a zero divisor, and only with DIV_BY_ZERO (R202). -/
theorem gf_div_error_iff (a b : GF11) (c : CmdFault) :
    Gf.div a b = .error c ↔ b = 0 ∧ c = .divByZero := by
  rw [gf_div_table]
  split <;> simp_all [eq_comm]

/-- `sqrt` fails only on the non-residues, and only with NON_RESIDUE (R203). -/
theorem gf_sqrt_error_iff (a : GF11) (c : CmdFault) :
    Gf.sqrt a = .error c ↔ a ∈ ([2, 6, 7, 8, 10] : List GF11) ∧ c = .nonResidue := by
  revert a; cases c <;> decide

end Sys2Proof.Laws
end

