-- ==== Sys2Proof/Laws/Packing.lean ====
section
/-! SUPPORT. Register words and their 4-bit fields: what packing and unpacking do to each field. -/

namespace Sys2Proof.Laws

open Sys2Proof.Machine

/-- A concatenation as an integer. -/
theorem append_toNat {m n : Nat} (x : BitVec m) (y : BitVec n) :
    (x ++ y).toNat = x.toNat * 2 ^ n + y.toNat := by
  rw [BitVec.toNat_append, ← Nat.shiftLeft_add_eq_or_of_lt y.isLt, Nat.shiftLeft_eq]

/-- The integer a packed register holds (R63). -/
theorem pack4_toNat (n0 n1 n2 n3 : Sym4) :
    (pack4 n0 n1 n2 n3).toNat = n0.toNat + 16 * n1.toNat + 256 * n2.toNat + 4096 * n3.toNat := by
  rw [pack4, append_toNat, append_toNat, append_toNat]
  omega

/-- The integer a 4-bit field holds (R10). -/
theorem nibble_toNat (w : Word16) (k : Nat) : (nibble w k).toNat = w.toNat / 2 ^ (4 * k) % 16 := by
  simp [nibble, BitVec.extractLsb'_toNat, Nat.shiftRight_eq_div_pow]

@[simp] theorem nibble_pack4_zero (n0 n1 n2 n3 : Sym4) : nibble (pack4 n0 n1 n2 n3) 0 = n0 := by
  apply BitVec.eq_of_toNat_eq
  rw [nibble_toNat, pack4_toNat]
  omega

@[simp] theorem nibble_pack4_one (n0 n1 n2 n3 : Sym4) : nibble (pack4 n0 n1 n2 n3) 1 = n1 := by
  apply BitVec.eq_of_toNat_eq
  rw [nibble_toNat, pack4_toNat]
  omega

@[simp] theorem nibble_pack4_two (n0 n1 n2 n3 : Sym4) : nibble (pack4 n0 n1 n2 n3) 2 = n2 := by
  apply BitVec.eq_of_toNat_eq
  rw [nibble_toNat, pack4_toNat]
  omega

@[simp] theorem nibble_pack4_three (n0 n1 n2 n3 : Sym4) : nibble (pack4 n0 n1 n2 n3) 3 = n3 := by
  apply BitVec.eq_of_toNat_eq
  rw [nibble_toNat, pack4_toNat]
  omega

/-- A register word is the packing of its four fields. -/
theorem pack4_nibbles (w : Word16) :
    pack4 (nibble w 0) (nibble w 1) (nibble w 2) (nibble w 3) = w := by
  apply BitVec.eq_of_toNat_eq
  rw [pack4_toNat, nibble_toNat, nibble_toNat, nibble_toNat, nibble_toNat]
  omega

/-- The symbols of a packed word are the word's (R63). -/
@[simp] theorem unpack_packWord (z : SymbolWord) :
    unpackWord (packWord z).1 (packWord z).2.1 (packWord z).2.2 = z := by
  apply Vector.ext
  intro i hi
  simp only [unpackWord, packWord, nibble_pack4_zero, nibble_pack4_one, nibble_pack4_two,
    nibble_pack4_three]
  interval_cases i <;> rfl

/-- A field element's symbol holds its value. -/
@[simp] theorem symbol_toNat (x : GF11) : (symbol x).toNat = x.val := by
  revert x; decide

/-- Reading a field element back from its symbol. -/
@[simp] theorem element_symbol (x : GF11) : element (symbol x).toNat = x := by
  revert x; decide

/-- A value in range is the field element of the same integer (R11). -/
theorem element_val {v : Nat} (h : v ≤ 10) : (element v).val = v := by
  simp only [element, Fin.val_ofNat]
  omega

/-- A symbol in range is the symbol of its field element. -/
theorem symbol_element {v : Sym4} (h : v.toNat ≤ 10) : symbol (element v.toNat) = v := by
  apply BitVec.eq_of_toNat_eq
  rw [symbol_toNat, element_val h]

/-- The masked CW_IN2 holds the low byte of what was written (R34). -/
theorem and_lowByte (v : Word16) : v &&& 0x00FF#16 = BitVec.ofNat 16 (v.toNat % 256) := by
  apply BitVec.eq_of_toNat_eq
  have h : v.toNat &&& 255 = v.toNat % 256 := Nat.and_two_pow_sub_one_eq_mod v.toNat 8
  have h2 : v.toNat % 256 % 65536 = v.toNat % 256 := by omega
  simp [BitVec.toNat_and, h, h2]

end Sys2Proof.Laws
end

