-- ==== Sys2Proof/Laws/State.lean ====
section
/-! SUPPORT. One lemma per field per update of State: what each operation leaves in each field. -/

namespace Sys2Proof.Laws

open Sys2Proof.Machine


/-! ### The fault commit (R208) -/

@[simp] theorem commitFault_cmd (s : State) (p : Pending) (c : CmdFault) :
    (s.commitFault p c).cmd = s.cmd := rfl
@[simp] theorem commitFault_valid (s : State) (p : Pending) (c : CmdFault) :
    (s.commitFault p c).valid = true := rfl
@[simp] theorem commitFault_ovr (s : State) (p : Pending) (c : CmdFault) :
    (s.commitFault p c).ovr = s.ovr := rfl
@[simp] theorem commitFault_fault (s : State) (p : Pending) (c : CmdFault) :
    (s.commitFault p c).fault = some c := rfl
@[simp] theorem commitFault_fsticky (s : State) (p : Pending) (c : CmdFault) :
    (s.commitFault p c).fsticky = true := rfl
@[simp] theorem commitFault_cls (s : State) (p : Pending) (c : CmdFault) :
    (s.commitFault p c).cls = none := rfl
@[simp] theorem commitFault_lastOp (s : State) (p : Pending) (c : CmdFault) :
    (s.commitFault p c).lastOp = p.op := rfl
@[simp] theorem commitFault_result (s : State) (p : Pending) (c : CmdFault) :
    (s.commitFault p c).result = s.result := rfl
@[simp] theorem commitFault_cwIn0 (s : State) (p : Pending) (c : CmdFault) :
    (s.commitFault p c).cwIn0 = s.cwIn0 := rfl
@[simp] theorem commitFault_cwIn1 (s : State) (p : Pending) (c : CmdFault) :
    (s.commitFault p c).cwIn1 = s.cwIn1 := rfl
@[simp] theorem commitFault_cwIn2 (s : State) (p : Pending) (c : CmdFault) :
    (s.commitFault p c).cwIn2 = s.cwIn2 := rfl
@[simp] theorem commitFault_cwOut0 (s : State) (p : Pending) (c : CmdFault) :
    (s.commitFault p c).cwOut0 = s.cwOut0 := rfl
@[simp] theorem commitFault_cwOut1 (s : State) (p : Pending) (c : CmdFault) :
    (s.commitFault p c).cwOut1 = s.cwOut1 := rfl
@[simp] theorem commitFault_cwOut2 (s : State) (p : Pending) (c : CmdFault) :
    (s.commitFault p c).cwOut2 = s.cwOut2 := rfl
@[simp] theorem commitFault_syn (s : State) (p : Pending) (c : CmdFault) :
    (s.commitFault p c).syn = s.syn := rfl
@[simp] theorem commitFault_loc (s : State) (p : Pending) (c : CmdFault) :
    (s.commitFault p c).loc = s.loc := rfl
@[simp] theorem commitFault_err (s : State) (p : Pending) (c : CmdFault) :
    (s.commitFault p c).err = s.err := rfl
@[simp] theorem commitFault_phase (s : State) (p : Pending) (c : CmdFault) :
    (s.commitFault p c).phase = .idle := rfl
@[simp] theorem commitFault_schedule (s : State) (p : Pending) (c : CmdFault) :
    (s.commitFault p c).schedule = s.schedule := rfl
@[simp] theorem commitFault_reads (s : State) (p : Pending) (c : CmdFault) :
    (s.commitFault p c).reads = s.reads := rfl

/-! ### The successful commit (R209): the fields no command's writes decide -/

@[simp] theorem commit_cmd (s : State) (p : Pending) (w : Writes) :
    (s.commit p w).cmd = s.cmd := by cases w <;> rfl
@[simp] theorem commit_valid (s : State) (p : Pending) (w : Writes) :
    (s.commit p w).valid = true := rfl
@[simp] theorem commit_ovr (s : State) (p : Pending) (w : Writes) :
    (s.commit p w).ovr = s.ovr := by cases w <;> rfl
@[simp] theorem commit_fault (s : State) (p : Pending) (w : Writes) :
    (s.commit p w).fault = none := rfl
@[simp] theorem commit_fsticky (s : State) (p : Pending) (w : Writes) :
    (s.commit p w).fsticky = s.fsticky := by cases w <;> rfl
@[simp] theorem commit_cls (s : State) (p : Pending) (w : Writes) :
    (s.commit p w).cls = w.cls := rfl
@[simp] theorem commit_lastOp (s : State) (p : Pending) (w : Writes) :
    (s.commit p w).lastOp = p.op := rfl
@[simp] theorem commit_cwIn0 (s : State) (p : Pending) (w : Writes) :
    (s.commit p w).cwIn0 = s.cwIn0 := by cases w <;> rfl
@[simp] theorem commit_cwIn1 (s : State) (p : Pending) (w : Writes) :
    (s.commit p w).cwIn1 = s.cwIn1 := by cases w <;> rfl
@[simp] theorem commit_cwIn2 (s : State) (p : Pending) (w : Writes) :
    (s.commit p w).cwIn2 = s.cwIn2 := by cases w <;> rfl
@[simp] theorem commit_phase (s : State) (p : Pending) (w : Writes) :
    (s.commit p w).phase = .idle := rfl
@[simp] theorem commit_schedule (s : State) (p : Pending) (w : Writes) :
    (s.commit p w).schedule = s.schedule := by cases w <;> rfl
@[simp] theorem commit_reads (s : State) (p : Pending) (w : Writes) :
    (s.commit p w).reads = s.reads := by cases w <;> rfl

/-! ### The successful commit (R209): the result registers, by what is written -/

@[simp] theorem commit_result_result (s : State) (p : Pending) (y : GF11) :
    (s.commit p (.result y)).result = packElements y 0 0 0 := rfl
@[simp] theorem commit_result_cwOut0 (s : State) (p : Pending) (y : GF11) :
    (s.commit p (.result y)).cwOut0 = s.cwOut0 := rfl
@[simp] theorem commit_result_cwOut1 (s : State) (p : Pending) (y : GF11) :
    (s.commit p (.result y)).cwOut1 = s.cwOut1 := rfl
@[simp] theorem commit_result_cwOut2 (s : State) (p : Pending) (y : GF11) :
    (s.commit p (.result y)).cwOut2 = s.cwOut2 := rfl
@[simp] theorem commit_result_syn (s : State) (p : Pending) (y : GF11) :
    (s.commit p (.result y)).syn = s.syn := rfl
@[simp] theorem commit_result_loc (s : State) (p : Pending) (y : GF11) :
    (s.commit p (.result y)).loc = s.loc := rfl
@[simp] theorem commit_result_err (s : State) (p : Pending) (y : GF11) :
    (s.commit p (.result y)).err = s.err := rfl
@[simp] theorem commit_syndromes_result (s : State) (p : Pending) (S : Syndromes) :
    (s.commit p (.syndromes S)).result = s.result := rfl
@[simp] theorem commit_syndromes_cwOut0 (s : State) (p : Pending) (S : Syndromes) :
    (s.commit p (.syndromes S)).cwOut0 = s.cwOut0 := rfl
@[simp] theorem commit_syndromes_cwOut1 (s : State) (p : Pending) (S : Syndromes) :
    (s.commit p (.syndromes S)).cwOut1 = s.cwOut1 := rfl
@[simp] theorem commit_syndromes_cwOut2 (s : State) (p : Pending) (S : Syndromes) :
    (s.commit p (.syndromes S)).cwOut2 = s.cwOut2 := rfl
@[simp] theorem commit_syndromes_syn (s : State) (p : Pending) (S : Syndromes) :
    (s.commit p (.syndromes S)).syn = S.word := rfl
@[simp] theorem commit_syndromes_loc (s : State) (p : Pending) (S : Syndromes) :
    (s.commit p (.syndromes S)).loc = s.loc := rfl
@[simp] theorem commit_syndromes_err (s : State) (p : Pending) (S : Syndromes) :
    (s.commit p (.syndromes S)).err = s.err := rfl
@[simp] theorem commit_decoded_result (s : State) (p : Pending) (z : Codeword) (S : Syndromes) (L : Locator)
    (d : Diagnosis) :
    (s.commit p (.decoded z S L d)).result = s.result := rfl
@[simp] theorem commit_decoded_cwOut0 (s : State) (p : Pending) (z : Codeword) (S : Syndromes) (L : Locator)
    (d : Diagnosis) :
    (s.commit p (.decoded z S L d)).cwOut0 = (packWord (symbols z)).1 := rfl
@[simp] theorem commit_decoded_cwOut1 (s : State) (p : Pending) (z : Codeword) (S : Syndromes) (L : Locator)
    (d : Diagnosis) :
    (s.commit p (.decoded z S L d)).cwOut1 = (packWord (symbols z)).2.1 := rfl
@[simp] theorem commit_decoded_cwOut2 (s : State) (p : Pending) (z : Codeword) (S : Syndromes) (L : Locator)
    (d : Diagnosis) :
    (s.commit p (.decoded z S L d)).cwOut2 = (packWord (symbols z)).2.2 := rfl
@[simp] theorem commit_decoded_syn (s : State) (p : Pending) (z : Codeword) (S : Syndromes) (L : Locator)
    (d : Diagnosis) :
    (s.commit p (.decoded z S L d)).syn = S.word := rfl
@[simp] theorem commit_decoded_loc (s : State) (p : Pending) (z : Codeword) (S : Syndromes) (L : Locator)
    (d : Diagnosis) :
    (s.commit p (.decoded z S L d)).loc = L.word := rfl
@[simp] theorem commit_decoded_err (s : State) (p : Pending) (z : Codeword) (S : Syndromes) (L : Locator)
    (d : Diagnosis) :
    (s.commit p (.decoded z S L d)).err = d.errWord := rfl

/-! ### The accept (R46) -/

@[simp] theorem accept_cmd (s : State) (v : Word16) :
    (s.accept v).cmd = v := rfl
@[simp] theorem accept_valid (s : State) (v : Word16) :
    (s.accept v).valid = s.valid := rfl
@[simp] theorem accept_ovr (s : State) (v : Word16) :
    (s.accept v).ovr = s.ovr := rfl
@[simp] theorem accept_fault (s : State) (v : Word16) :
    (s.accept v).fault = s.fault := rfl
@[simp] theorem accept_fsticky (s : State) (v : Word16) :
    (s.accept v).fsticky = s.fsticky := rfl
@[simp] theorem accept_cls (s : State) (v : Word16) :
    (s.accept v).cls = s.cls := rfl
@[simp] theorem accept_lastOp (s : State) (v : Word16) :
    (s.accept v).lastOp = s.lastOp := rfl
@[simp] theorem accept_result (s : State) (v : Word16) :
    (s.accept v).result = s.result := rfl
@[simp] theorem accept_cwIn0 (s : State) (v : Word16) :
    (s.accept v).cwIn0 = s.cwIn0 := rfl
@[simp] theorem accept_cwIn1 (s : State) (v : Word16) :
    (s.accept v).cwIn1 = s.cwIn1 := rfl
@[simp] theorem accept_cwIn2 (s : State) (v : Word16) :
    (s.accept v).cwIn2 = s.cwIn2 := rfl
@[simp] theorem accept_cwOut0 (s : State) (v : Word16) :
    (s.accept v).cwOut0 = s.cwOut0 := rfl
@[simp] theorem accept_cwOut1 (s : State) (v : Word16) :
    (s.accept v).cwOut1 = s.cwOut1 := rfl
@[simp] theorem accept_cwOut2 (s : State) (v : Word16) :
    (s.accept v).cwOut2 = s.cwOut2 := rfl
@[simp] theorem accept_syn (s : State) (v : Word16) :
    (s.accept v).syn = s.syn := rfl
@[simp] theorem accept_loc (s : State) (v : Word16) :
    (s.accept v).loc = s.loc := rfl
@[simp] theorem accept_err (s : State) (v : Word16) :
    (s.accept v).err = s.err := rfl
@[simp] theorem accept_phase (s : State) (v : Word16) :
    (s.accept v).phase = .busy (snapshot v s.cwIn) := rfl
@[simp] theorem accept_schedule (s : State) (v : Word16) :
    (s.accept v).schedule = s.schedule := rfl
@[simp] theorem accept_reads (s : State) (v : Word16) :
    (s.accept v).reads = s.reads := rfl

/-! ### A read's return to the host (R44) -/

@[simp] theorem giveHost_cmd (s : State) (idx : RegIdx) (v : Word16) :
    (s.giveHost idx v).cmd = s.cmd := rfl
@[simp] theorem giveHost_valid (s : State) (idx : RegIdx) (v : Word16) :
    (s.giveHost idx v).valid = s.valid := rfl
@[simp] theorem giveHost_ovr (s : State) (idx : RegIdx) (v : Word16) :
    (s.giveHost idx v).ovr = s.ovr := rfl
@[simp] theorem giveHost_fault (s : State) (idx : RegIdx) (v : Word16) :
    (s.giveHost idx v).fault = s.fault := rfl
@[simp] theorem giveHost_fsticky (s : State) (idx : RegIdx) (v : Word16) :
    (s.giveHost idx v).fsticky = s.fsticky := rfl
@[simp] theorem giveHost_cls (s : State) (idx : RegIdx) (v : Word16) :
    (s.giveHost idx v).cls = s.cls := rfl
@[simp] theorem giveHost_lastOp (s : State) (idx : RegIdx) (v : Word16) :
    (s.giveHost idx v).lastOp = s.lastOp := rfl
@[simp] theorem giveHost_result (s : State) (idx : RegIdx) (v : Word16) :
    (s.giveHost idx v).result = s.result := rfl
@[simp] theorem giveHost_cwIn0 (s : State) (idx : RegIdx) (v : Word16) :
    (s.giveHost idx v).cwIn0 = s.cwIn0 := rfl
@[simp] theorem giveHost_cwIn1 (s : State) (idx : RegIdx) (v : Word16) :
    (s.giveHost idx v).cwIn1 = s.cwIn1 := rfl
@[simp] theorem giveHost_cwIn2 (s : State) (idx : RegIdx) (v : Word16) :
    (s.giveHost idx v).cwIn2 = s.cwIn2 := rfl
@[simp] theorem giveHost_cwOut0 (s : State) (idx : RegIdx) (v : Word16) :
    (s.giveHost idx v).cwOut0 = s.cwOut0 := rfl
@[simp] theorem giveHost_cwOut1 (s : State) (idx : RegIdx) (v : Word16) :
    (s.giveHost idx v).cwOut1 = s.cwOut1 := rfl
@[simp] theorem giveHost_cwOut2 (s : State) (idx : RegIdx) (v : Word16) :
    (s.giveHost idx v).cwOut2 = s.cwOut2 := rfl
@[simp] theorem giveHost_syn (s : State) (idx : RegIdx) (v : Word16) :
    (s.giveHost idx v).syn = s.syn := rfl
@[simp] theorem giveHost_loc (s : State) (idx : RegIdx) (v : Word16) :
    (s.giveHost idx v).loc = s.loc := rfl
@[simp] theorem giveHost_err (s : State) (idx : RegIdx) (v : Word16) :
    (s.giveHost idx v).err = s.err := rfl
@[simp] theorem giveHost_phase (s : State) (idx : RegIdx) (v : Word16) :
    (s.giveHost idx v).phase = s.phase := rfl
@[simp] theorem giveHost_schedule (s : State) (idx : RegIdx) (v : Word16) :
    (s.giveHost idx v).schedule = s.schedule := rfl
@[simp] theorem giveHost_reads (s : State) (idx : RegIdx) (v : Word16) :
    (s.giveHost idx v).reads = ⟨idx, v⟩ :: s.reads := rfl

/-! ### Reset (R230) -/

@[simp] theorem resetBlock_cmd (s : State) :
    s.resetBlock.cmd = 0#16 := rfl
@[simp] theorem resetBlock_valid (s : State) :
    s.resetBlock.valid = false := rfl
@[simp] theorem resetBlock_ovr (s : State) :
    s.resetBlock.ovr = false := rfl
@[simp] theorem resetBlock_fault (s : State) :
    s.resetBlock.fault = none := rfl
@[simp] theorem resetBlock_fsticky (s : State) :
    s.resetBlock.fsticky = false := rfl
@[simp] theorem resetBlock_cls (s : State) :
    s.resetBlock.cls = none := rfl
@[simp] theorem resetBlock_lastOp (s : State) :
    s.resetBlock.lastOp = 0#4 := rfl
@[simp] theorem resetBlock_result (s : State) :
    s.resetBlock.result = 0#16 := rfl
@[simp] theorem resetBlock_cwIn0 (s : State) :
    s.resetBlock.cwIn0 = 0#16 := rfl
@[simp] theorem resetBlock_cwIn1 (s : State) :
    s.resetBlock.cwIn1 = 0#16 := rfl
@[simp] theorem resetBlock_cwIn2 (s : State) :
    s.resetBlock.cwIn2 = 0#16 := rfl
@[simp] theorem resetBlock_cwOut0 (s : State) :
    s.resetBlock.cwOut0 = 0#16 := rfl
@[simp] theorem resetBlock_cwOut1 (s : State) :
    s.resetBlock.cwOut1 = 0#16 := rfl
@[simp] theorem resetBlock_cwOut2 (s : State) :
    s.resetBlock.cwOut2 = 0#16 := rfl
@[simp] theorem resetBlock_syn (s : State) :
    s.resetBlock.syn = 0#16 := rfl
@[simp] theorem resetBlock_loc (s : State) :
    s.resetBlock.loc = 0#16 := rfl
@[simp] theorem resetBlock_err (s : State) :
    s.resetBlock.err = 0#16 := rfl
@[simp] theorem resetBlock_phase (s : State) :
    s.resetBlock.phase = .idle := rfl
@[simp] theorem resetBlock_schedule (s : State) :
    s.resetBlock.schedule = s.schedule := rfl
@[simp] theorem resetBlock_reads (s : State) :
    s.resetBlock.reads = s.reads := rfl

/-! ### The placing of a command word -/

@[simp] theorem withFetchWord_cmd (s : State) (nbits w : Nat) :
    (s.withFetchWord nbits w).cmd = BitVec.ofNat 16 (w % 2 ^ nbits) := rfl
@[simp] theorem withFetchWord_valid (s : State) (nbits w : Nat) :
    (s.withFetchWord nbits w).valid = s.valid := rfl
@[simp] theorem withFetchWord_ovr (s : State) (nbits w : Nat) :
    (s.withFetchWord nbits w).ovr = s.ovr := rfl
@[simp] theorem withFetchWord_fault (s : State) (nbits w : Nat) :
    (s.withFetchWord nbits w).fault = s.fault := rfl
@[simp] theorem withFetchWord_fsticky (s : State) (nbits w : Nat) :
    (s.withFetchWord nbits w).fsticky = s.fsticky := rfl
@[simp] theorem withFetchWord_cls (s : State) (nbits w : Nat) :
    (s.withFetchWord nbits w).cls = s.cls := rfl
@[simp] theorem withFetchWord_lastOp (s : State) (nbits w : Nat) :
    (s.withFetchWord nbits w).lastOp = s.lastOp := rfl
@[simp] theorem withFetchWord_result (s : State) (nbits w : Nat) :
    (s.withFetchWord nbits w).result = s.result := rfl
@[simp] theorem withFetchWord_cwIn0 (s : State) (nbits w : Nat) :
    (s.withFetchWord nbits w).cwIn0 = s.cwIn0 := rfl
@[simp] theorem withFetchWord_cwIn1 (s : State) (nbits w : Nat) :
    (s.withFetchWord nbits w).cwIn1 = s.cwIn1 := rfl
@[simp] theorem withFetchWord_cwIn2 (s : State) (nbits w : Nat) :
    (s.withFetchWord nbits w).cwIn2 = s.cwIn2 := rfl
@[simp] theorem withFetchWord_cwOut0 (s : State) (nbits w : Nat) :
    (s.withFetchWord nbits w).cwOut0 = s.cwOut0 := rfl
@[simp] theorem withFetchWord_cwOut1 (s : State) (nbits w : Nat) :
    (s.withFetchWord nbits w).cwOut1 = s.cwOut1 := rfl
@[simp] theorem withFetchWord_cwOut2 (s : State) (nbits w : Nat) :
    (s.withFetchWord nbits w).cwOut2 = s.cwOut2 := rfl
@[simp] theorem withFetchWord_syn (s : State) (nbits w : Nat) :
    (s.withFetchWord nbits w).syn = s.syn := rfl
@[simp] theorem withFetchWord_loc (s : State) (nbits w : Nat) :
    (s.withFetchWord nbits w).loc = s.loc := rfl
@[simp] theorem withFetchWord_err (s : State) (nbits w : Nat) :
    (s.withFetchWord nbits w).err = s.err := rfl
@[simp] theorem withFetchWord_phase (s : State) (nbits w : Nat) :
    (s.withFetchWord nbits w).phase = .busy (snapshot (BitVec.ofNat 16 (w % 2 ^ nbits)) s.cwIn) := rfl
@[simp] theorem withFetchWord_schedule (s : State) (nbits w : Nat) :
    (s.withFetchWord nbits w).schedule = .engine :: s.schedule := rfl
@[simp] theorem withFetchWord_reads (s : State) (nbits w : Nat) :
    (s.withFetchWord nbits w).reads = s.reads := rfl

end Sys2Proof.Laws
end

