-- ==== Sys2Proof/Laws/Ops.lean ====
section
/-! SUPPORT. What each shared operation can do, said once: the operand forms, the commit of a
command, `exec`, and one step. -/

namespace Sys2Proof.Laws

open Sys2Proof.Machine

/-! ### Operand forms -/

theorem fieldOperand_of_le {v : Nat} (h : v ≤ 10) : fieldOperand v = .ok (element v) := by
  simp [fieldOperand, h]

theorem fieldOperand_of_gt {v : Nat} (h : 10 < v) : fieldOperand v = .error .range := by
  simp [fieldOperand, Nat.not_le.mpr h]

theorem inputWord_of_range {cw : SymbolWord} (h : ∀ i : Fin 10, (cw[i]).toNat ≤ 10) :
    inputWord cw = .ok (Vector.ofFn fun i => element (cw[i]).toNat) := by
  rw [inputWord, if_pos h]

theorem inputWord_of_not_range {cw : SymbolWord} (h : ¬ ∀ i : Fin 10, (cw[i]).toNat ≤ 10) :
    inputWord cw = .error .range := by
  rw [inputWord, if_neg h]

/-! ### The commit of a command -/

/-- What a command computes from the snapshot, apart from how it is committed. -/
def computeOf : Instr → Pending → Except CmdFault Writes
  | .add a b, _ => binaryField (fun x y => .ok (Gf.add x y)) a b
  | .sub a b, _ => binaryField (fun x y => .ok (Gf.sub x y)) a b
  | .mul a b, _ => binaryField (fun x y => .ok (Gf.mul x y)) a b
  | .inv a _, _ => unaryField Gf.inv a
  | .div a b, _ => binaryField Gf.div a b
  | .sqrt a _, _ => unaryField Gf.sqrt a
  | .synd _ _, p => syndCommand p
  | .decode _ _, p => decodeCommand p

/-- Every command is the commit of what it computes. -/
theorem exec_eq_runCommand (i : Instr) (s : State) : exec i s = runCommand (computeOf i) s := by
  cases i <;> rfl

theorem runCommand_idle (f : Pending → Except CmdFault Writes) {s : State} (h : s.phase = .idle) :
    runCommand f s = .fault .noPendingCommand := by
  simp [runCommand, h]

theorem runCommand_ok {f : Pending → Except CmdFault Writes} {s : State} {p : Pending} {w : Writes}
    (h : s.phase = .busy p) (hf : f p = .ok w) : runCommand f s = .next (s.commit p w) := by
  simp [runCommand, h, hf]

theorem runCommand_error {f : Pending → Except CmdFault Writes} {s : State} {p : Pending}
    {c : CmdFault} (h : s.phase = .busy p) (hf : f p = .error c) :
    runCommand f s = .next (s.commitFault p c) := by
  simp [runCommand, h, hf]

/-- Everything a command can do when it gives a next state: one of the two commits of the pending
command (R208, R209). -/
theorem runCommand_cases {f : Pending → Except CmdFault Writes} {s t : State}
    (h : runCommand f s = .next t) :
    ∃ p, s.phase = .busy p ∧
      ((∃ c, f p = .error c ∧ t = s.commitFault p c) ∨ ∃ w, f p = .ok w ∧ t = s.commit p w) := by
  cases hp : s.phase with
  | idle => simp [runCommand, hp] at h
  | busy p =>
    refine ⟨p, rfl, ?_⟩
    cases hf : f p with
    | error c =>
      rw [runCommand_error hp hf] at h
      exact .inl ⟨c, rfl, (Host.Outcome.next.inj h).symm⟩
    | ok w =>
      rw [runCommand_ok hp hf] at h
      exact .inr ⟨w, rfl, (Host.Outcome.next.inj h).symm⟩

/-- `runCommand_cases` for `exec`. -/
theorem exec_cases {i : Instr} {s t : State} (h : exec i s = .next t) :
    ∃ p, s.phase = .busy p ∧
      ((∃ c, computeOf i p = .error c ∧ t = s.commitFault p c) ∨
        ∃ w, computeOf i p = .ok w ∧ t = s.commit p w) :=
  runCommand_cases (exec_eq_runCommand i s ▸ h)

/-! ### One step -/

/-- Everything the engine's turn can do when it gives a next state: nothing while IDLE; the fault
commit of an illegal word; or the command that the pending word decodes to (R47, R89). -/
theorem engineTurn_cases {s t : State} (h : engineTurn s = .next t) :
    (s.phase = .idle ∧ t = s) ∨
    (∃ p e, s.phase = .busy p ∧ p.decode = .error e ∧ t = s.commitFault p .illegalOp) ∨
    (∃ p i, s.phase = .busy p ∧ p.decode = .ok i ∧ exec i s = .next t) := by
  unfold engineTurn at h
  split at h
  · exact .inl ⟨‹_›, (Host.Outcome.next.inj h).symm⟩
  · split at h
    · exact .inr (.inl ⟨_, _, ‹_›, ‹_›, (Host.Outcome.next.inj h).symm⟩)
    · exact .inr (.inr ⟨_, _, ‹_›, ‹_›, h⟩)

/-- What the engine's turn does with a pending command is one commit that the snapshot alone decides:
the same fault, or the same writes, in every state in which it is pending (R41, R47). -/
theorem engineTurn_busy (p : Pending) :
    (∃ c, ∀ s : State, s.phase = .busy p → engineTurn s = .next (s.commitFault p c)) ∨
    (∃ w, ∀ s : State, s.phase = .busy p → engineTurn s = .next (s.commit p w)) := by
  cases hd : p.decode with
  | error e => exact .inl ⟨.illegalOp, fun s hs => by simp [engineTurn, hs, hd]⟩
  | ok i =>
    cases hf : computeOf i p with
    | error c =>
      refine .inl ⟨c, fun s hs => ?_⟩
      simp only [engineTurn, hs, hd, exec_eq_runCommand]
      exact runCommand_error hs hf
    | ok w =>
      refine .inr ⟨w, fun s hs => ?_⟩
      simp only [engineTurn, hs, hd, exec_eq_runCommand]
      exact runCommand_ok hs hf

/-- The engine's turn always gives a next state. It leaves the block IDLE and takes nothing off the
schedule; with a command pending it has committed (R47, R208, R209). -/
theorem engineTurn_next (s : State) :
    ∃ t, engineTurn s = .next t ∧ t.phase = .idle ∧ t.schedule = s.schedule ∧
      ∀ p, s.phase = .busy p → t.valid = true ∧ t.lastOp = p.op := by
  cases hp : s.phase with
  | idle => exact ⟨s, by simp [engineTurn, hp], hp, rfl, by simp⟩
  | busy p =>
    obtain ⟨c, h⟩ | ⟨w, h⟩ := engineTurn_busy p
    · exact ⟨_, h s hp, rfl, rfl, fun q hq => by cases hq; exact ⟨rfl, rfl⟩⟩
    · exact ⟨_, h s hp, rfl, by cases w <;> rfl, fun q hq => by cases hq; exact ⟨rfl, rfl⟩⟩

/-! What a step is, by the next event. -/

theorem step_of_nil {s : State} (h : s.schedule = []) : step s = engineTurn s := by
  simp [step, h]

theorem step_of_engine {s : State} {rest : List Event} (h : s.schedule = .engine :: rest) :
    step s = engineTurn { s with schedule := rest } := by
  simp [step, h, perform]

theorem step_of_host {s : State} {a : Access} {rest : List Event}
    (h : s.schedule = .host a :: rest) :
    step s = .next (State.access { s with schedule := rest } a) := by
  simp [step, h, perform]

theorem step_of_reset {s : State} {a : Option Access} {rest : List Event}
    (h : s.schedule = .reset a :: rest) :
    step s = .next (State.resetCycle { s with schedule := rest } a) := by
  simp [step, h, perform]

/-- Everything one step can do when it gives a next state: the engine's turn, because nothing is
scheduled or because it is the next event; a host access; or a reset cycle (R69). -/
theorem step_cases {s t : State} (h : step s = .next t) :
    (s.schedule = [] ∧ engineTurn s = .next t) ∨
    (∃ rest, s.schedule = .engine :: rest ∧ engineTurn { s with schedule := rest } = .next t) ∨
    (∃ a rest, s.schedule = .host a :: rest ∧ t = State.access { s with schedule := rest } a) ∨
    (∃ a rest, s.schedule = .reset a :: rest ∧
      t = State.resetCycle { s with schedule := rest } a) := by
  unfold step at h
  split at h
  · exact .inl ⟨‹_›, h⟩
  · rename_i e rest hs
    cases e with
    | host a => exact .inr (.inr (.inl ⟨a, rest, hs, (Host.Outcome.next.inj h).symm⟩))
    | engine => exact .inr (.inl ⟨rest, hs, h⟩)
    | reset a => exact .inr (.inr (.inr ⟨a, rest, hs, (Host.Outcome.next.inj h).symm⟩))

/-- Everything a host access can do: hand a value to the host; accept or drop a command; store in a
CW_IN register; or nothing (R44, R45, R46). -/
theorem access_cases (s : State) (a : Access) :
    (∃ idx v, s.access a = s.giveHost idx v) ∨
    (∃ v, s.phase = .idle ∧ s.access a = s.accept v) ∨
    (∃ p, s.phase = .busy p ∧ s.access a = { s with ovr := true }) ∨
    (∃ v, s.access a = { s with cwIn0 := v }) ∨ (∃ v, s.access a = { s with cwIn1 := v }) ∨
    (∃ v : Word16, s.access a = { s with cwIn2 := v &&& 0x00FF#16 }) ∨ s.access a = s := by
  cases a with
  | read idx => exact .inl ⟨idx, _, rfl⟩
  | write idx v =>
    simp only [State.access, State.regWrite]
    split
    · cases hp : s.phase with
      | idle => exact .inr (.inl ⟨v, rfl, by simp [State.issue, hp]⟩)
      | busy p => exact .inr (.inr (.inl ⟨p, rfl, by simp [State.issue, hp]⟩))
    · exact .inr (.inr (.inr (.inl ⟨v, rfl⟩)))
    · exact .inr (.inr (.inr (.inr (.inl ⟨v, rfl⟩))))
    · exact .inr (.inr (.inr (.inr (.inr (.inl ⟨v, rfl⟩)))))
    all_goals exact .inr (.inr (.inr (.inr (.inr (.inr rfl)))))

/-- Everything a write can do while a command is pending: to CMD it sets OVR, and to any other index it
changes CW_IN at most (R45, R46). -/
theorem regWrite_of_busy {s : State} {p : Pending} (hp : s.phase = .busy p) (idx : RegIdx)
    (v : Word16) :
    (idx = 0x0#4 ∧ s.regWrite idx v = { s with ovr := true }) ∨
    (idx ≠ 0x0#4 ∧ ∃ c0 c1 c2, s.regWrite idx v = { s with cwIn0 := c0, cwIn1 := c1, cwIn2 := c2 }) := by
  by_cases hi : idx = 0x0#4
  · subst hi
    exact .inl ⟨rfl, by simp [State.regWrite, regAt, State.issue, hp]⟩
  · refine .inr ⟨hi, ?_⟩
    unfold State.regWrite
    split
    · rename_i h
      exact absurd h (by revert hi; revert idx; decide)
    all_goals exact ⟨_, _, _, rfl⟩

/-- A reset cycle leaves the block in its reset state, whatever the host does in it (R230). -/
theorem resetCycle_cases (s : State) (a : Option Access) :
    s.resetCycle a = s.resetBlock ∨ ∃ idx v, s.resetCycle a = s.resetBlock.giveHost idx v := by
  cases a with
  | none => exact .inl rfl
  | some x =>
    cases x with
    | read idx => exact .inr ⟨idx, _, rfl⟩
    | write idx v => exact .inl rfl

end Sys2Proof.Laws
end

