-- ==== Sys2Proof/Laws/Decoder.lean ====
section
/-! SUPPORT. What the syndrome and decoder functions compute, in terms a proof can use. -/

namespace Sys2Proof.Laws

open Sys2Proof.Machine

/-- The weighted sum as a sum over the positions (R140). -/
theorem weightedSum_eq_sum (y : Codeword) (k : Nat) :
    weightedSum y k = ∑ i : Fin 10, (y[i]).val * (i.val + 1) ^ k := by
  rw [weightedSum, ← List.ofFn_eq_map, List.sum_ofFn]

/-- The symbol of an output word at each position (R166, R167). -/
@[simp] theorem subtractAt_getElem (z : Codeword) (p e : GF11) (i : Nat) (hi : i < 10) :
    (subtractAt z p e)[i] = if p.val = i + 1 then z[i] - e else z[i] := by
  simp [subtractAt]

/-- The locator quantities as polynomials in the syndromes (R163). -/
theorem locatorOf_eq (S : Syndromes) :
    locatorOf S = { p := S.s2 * S.s2 - S.s1 * S.s3, q := S.s1 * S.s4 - S.s2 * S.s3,
                    r := S.s3 * S.s3 - S.s2 * S.s4,
                    d := (S.s1 * S.s4 - S.s2 * S.s3) * (S.s1 * S.s4 - S.s2 * S.s3) -
                      4 * ((S.s2 * S.s2 - S.s1 * S.s3) * (S.s3 * S.s3 - S.s2 * S.s4)) } := by
  simp [locatorOf]

/-- SYND on a word in range (R142). -/
theorem syndCommand_of_range {p : Pending} (h : ∀ i : Fin 10, (p.cw[i]).toNat ≤ 10) :
    syndCommand p = .ok (.syndromes (syndromesOf (Vector.ofFn fun i => element (p.cw[i]).toNat))) := by
  rw [syndCommand, inputWord_of_range h]

/-- DECODE on a word in range: what the diagnosis of its syndromes says (R160). -/
theorem decodeCommand_of_range {p : Pending} {y : Codeword}
    (h : ∀ i : Fin 10, (p.cw[i]).toNat ≤ 10)
    (hy : y = Vector.ofFn fun i => element (p.cw[i]).toNat) :
    decodeCommand p = match diagnose (syndromesOf y) with
      | .error c => .error c
      | .ok d => .ok (.decoded (d.correct y) (syndromesOf y) (locatorOf (syndromesOf y)) d) := by
  subst hy
  cases hd : diagnose (syndromesOf (Vector.ofFn fun i => element (p.cw[i]).toNat)) <;>
    simp only [decodeCommand, inputWord_of_range h, hd]

/-- SYND and DECODE on a word out of range (R205). -/
theorem wordCommands_of_not_range {p : Pending} (h : ¬ ∀ i : Fin 10, (p.cw[i]).toNat ≤ 10) :
    syndCommand p = .error .range ∧ decodeCommand p = .error .range := by
  constructor
  · rw [syndCommand, inputWord_of_not_range h]
  · rw [decodeCommand, inputWord_of_not_range h]

end Sys2Proof.Laws
end

