-- ==== Sys2Proof/Laws/Flags.lean ====
section
/-! SUPPORT. The STATUS word as an integer. -/

namespace Sys2Proof.Laws

open Sys2Proof.Machine

@[simp] theorem busy_idle {s : State} (h : s.phase = .idle) : s.busy = false := by
  simp [State.busy, h]

@[simp] theorem busy_busy {s : State} {p : Pending} (h : s.phase = .busy p) : s.busy = true := by
  simp [State.busy, h]

/-- The STATUS word's value, field by field (R25). -/
theorem statusWord_toNat (s : State) :
    s.statusWord.toNat = 4096 * s.lastOp.toNat + 256 * (classBits s.cls).toNat +
      128 * s.fsticky.toNat + 16 * (faultBits s.fault).toNat + 4 * s.ovr.toNat +
      2 * s.valid.toNat + s.busy.toNat := by
  simp only [State.statusWord, append_toNat, BitVec.toNat_ofBool, BitVec.toNat_zero]
  omega

/-- A class code is at most 4 (R31). -/
theorem classBits_le (c : Option Classification) : (classBits c).toNat ≤ 4 := by
  rcases c with _ | c
  · decide
  · cases c <;> decide

/-- A fault code is at most 5 (R29). -/
theorem faultBits_le (c : Option CmdFault) : (faultBits c).toNat ≤ 5 := by
  rcases c with _ | c
  · decide
  · cases c <;> decide

/-- Setting OVR sets bit 2 of the STATUS word and leaves every other bit (R25, R28). -/
theorem statusWord_setOvr (s : State) :
    ({ s with ovr := true } : State).statusWord = s.statusWord ||| 0x0004#16 := by
  have h : ∀ (l : BitVec 4) (x y : BitVec 3) (f o v b : Bool),
      l ++ 0#1 ++ x ++ BitVec.ofBool f ++ y ++ 0#1 ++ BitVec.ofBool true ++ BitVec.ofBool v ++
        BitVec.ofBool b =
      (l ++ 0#1 ++ x ++ BitVec.ofBool f ++ y ++ 0#1 ++ BitVec.ofBool o ++ BitVec.ofBool v ++
        BitVec.ofBool b) ||| 0x0004#16 := by
    intro l x y f o v b
    apply BitVec.eq_of_getLsbD_eq
    intro i hi
    simp only [BitVec.getLsbD_or, BitVec.getLsbD_append, BitVec.getLsbD_ofBool]
    interval_cases i <;> simp
  exact h ..

end Sys2Proof.Laws
end

