-- ==== Sys2Proof/Laws/PerInstr.lean ====
section
/-! SUPPORT. Statements about every command, one lemma per constructor. -/

/-- The OP field of a command's word is the command's opcode and its RSV field is 0 (R80, R84). -/
def Sys2Proof.Laws.OpcodeField.Statement (i : Sys2Proof.Instr) : Prop :=
  Sys2Proof.nibble (Sys2Proof.encode i) 3 = i.opcode ∧ Sys2Proof.nibble (Sys2Proof.encode i) 2 = 0#4

namespace Sys2Proof.Laws.OpcodeField

theorem add (a b : Nat) : Statement (.add a b) := by simp [Statement, encode]
theorem sub (a b : Nat) : Statement (.sub a b) := by simp [Statement, encode]
theorem mul (a b : Nat) : Statement (.mul a b) := by simp [Statement, encode]
theorem inv (a b : Nat) : Statement (.inv a b) := by simp [Statement, encode]
theorem div (a b : Nat) : Statement (.div a b) := by simp [Statement, encode]
theorem sqrt (a b : Nat) : Statement (.sqrt a b) := by simp [Statement, encode]
theorem synd (a b : Nat) : Statement (.synd a b) := by simp [Statement, encode]
theorem decode (a b : Nat) : Statement (.decode a b) := by simp [Statement, encode]

end Sys2Proof.Laws.OpcodeField
end

