-- ==== Sys2Proof/Tests/Slice0.lean ====
section
/-! SUPPORT. The model's own tests, their expected values from the spec's encodings and vectors, and
for each statement with hypotheses a concrete state that meets them. -/

namespace Sys2Proof.Tests

open Sys2Proof.Machine Sys2Proof.Spec

/-! ### Well-formedness: each check refuses an ill-formed command (R87) -/

theorem test_wellFormed_accepts_fifteen : (Instr.add 15 15).WellFormed := by decide
theorem test_wellFormed_refuses_operandA : ¬ (Instr.add 16 0).WellFormed := by decide
theorem test_wellFormed_refuses_operandB : ¬ (Instr.inv 0 16).WellFormed := by decide

/-! ### Decoding: each command by a word written out from R80 and R82 -/

theorem test_decode_add : decode 0b0001000010101010#16 = .ok (.add 10 10) := by decide
theorem test_decode_sub : decode 0b0010000000000001#16 = .ok (.sub 0 1) := by decide
theorem test_decode_mul : decode 0b0011000001111000#16 = .ok (.mul 7 8) := by decide
theorem test_decode_inv : decode 0b0100000001010111#16 = .ok (.inv 5 7) := by decide
theorem test_decode_div : decode 0b0101000001110011#16 = .ok (.div 7 3) := by decide
theorem test_decode_sqrt : decode 0b0110000000110000#16 = .ok (.sqrt 3 0) := by decide
theorem test_decode_synd : decode 0b1000000000001111#16 = .ok (.synd 0 15) := by decide
theorem test_decode_decode : decode 0b1001000011110000#16 = .ok (.decode 15 0) := by decide
theorem test_decode_reserved_op : decode 0b1011000000000000#16 = .error (.reservedOpcode 0xB#4) := by
  decide
theorem test_decode_reserved_field :
    decode 0b1001000100000000#16 = .error (.reservedField 1#4) := by decide
theorem test_tableWord_div : decodeTableWord 16 0x5073 = some (.div 7 3) := by decide

/-! ### One step of each command, from the vectors of the spec's file 95 -/

/-- The state after reset with an input word loaded and the word `w` as its next command. -/
def ready (w : Nat) (c0 c1 c2 : Word16) : State :=
  { State.reset with cwIn0 := c0, cwIn1 := c1, cwIn2 := c2 }.withFetchWord 16 w

/-- The registers at the given indices after one step. -/
def registersAfterStep (s : State) (idxs : List RegIdx) : Option (List Word16) :=
  match step s with
  | .next t => some (idxs.map t.regRead)
  | .fault _ => none
  | .refused _ => none

/-- F1: STATUS and RESULT. -/
theorem test_add_wraps :
    registersAfterStep (ready 0x10AA 0 0 0) [0x1, 0x2] = some [0x1002, 0x0009] := by decide

/-- F51: RANGE on B. -/
theorem test_add_range :
    registersAfterStep (ready 0x100B 0 0 0) [0x1, 0x2] = some [0x10C2, 0x0000] := by decide

/-- F6. -/
theorem test_sub_borrows :
    registersAfterStep (ready 0x2035 0 0 0) [0x1, 0x2] = some [0x2002, 0x0009] := by decide

/-- F11. -/
theorem test_mul_reduces :
    registersAfterStep (ready 0x3045 0 0 0) [0x1, 0x2] = some [0x3002, 0x0009] := by decide

/-- F25: an ignored field is not range-checked. -/
theorem test_inv_ignores_b :
    registersAfterStep (ready 0x405F 0 0 0) [0x1, 0x2] = some [0x4002, 0x0009] := by decide

/-- F13: DIV_BY_ZERO. -/
theorem test_inv_zero :
    registersAfterStep (ready 0x4000 0 0 0) [0x1, 0x2] = some [0x4092, 0x0000] := by decide

/-- F27. -/
theorem test_div_quotient :
    registersAfterStep (ready 0x5073 0 0 0) [0x1, 0x2] = some [0x5002, 0x0006] := by decide

/-- F33: RANGE comes before DIV_BY_ZERO. -/
theorem test_div_range_first :
    registersAfterStep (ready 0x50C0 0 0 0) [0x1, 0x2] = some [0x50C2, 0x0000] := by decide

/-- F39: the smaller of 5 and 6. -/
theorem test_sqrt_smaller_root :
    registersAfterStep (ready 0x6030 0 0 0) [0x1, 0x2] = some [0x6002, 0x0005] := by decide

/-- F43: NON_RESIDUE. -/
theorem test_sqrt_non_residue :
    registersAfterStep (ready 0x6020 0 0 0) [0x1, 0x2] = some [0x60A2, 0x0000] := by decide

/-- S14: STATUS, SYN, and CW_OUT0 left alone. -/
theorem test_synd_word :
    registersAfterStep (ready 0x8000 0x4103 0x4321 0x0065) [0x1, 0x9, 0x6] =
      some [0x8002, 0x28A7, 0x0000] := by decide +kernel

/-- S17: a symbol 11 at the last position. -/
theorem test_synd_range :
    registersAfterStep (ready 0x8000 0 0 0x00B0) [0x1, 0x9] = some [0x80C2, 0x0000] := by
  decide +kernel

/-- K9: STATUS, SYN, LOC, ERR and the output word of a double error. -/
theorem test_decode_two_errors :
    registersAfterStep (ready 0x9000 0x39A9 0x1913 0x0095) [0x1, 0x9, 0xA, 0xB, 0x6, 0x7, 0x8] =
      some [0x9302, 0x1994, 0x9601, 0xA457, 0x49A9, 0x1413, 0x0095] := by decide +kernel

/-- K15: BAD_POSITION writes nothing but STATUS. -/
theorem test_decode_bad_position :
    registersAfterStep (ready 0x9000 0xA454 0 0) [0x1, 0x9, 0xB, 0x6] =
      some [0x90B2, 0x0000, 0x0000, 0x0000] := by decide +kernel

/-- F35: RSV ≠ 0 with a legal OP. -/
theorem test_illegal_word :
    registersAfterStep (ready 0x2A0A 0 0 0) [0x0, 0x1] = some [0x2A0A, 0x20D2] := by decide

/-- H4: CW_IN2 stores its low byte. -/
theorem test_cwIn2_low_byte :
    (State.reset.regWrite 0x5#4 0xFFFF#16).regRead 0x5#4 = 0x00FF#16 := by decide

/-- H6: a second write to CMD is dropped and sets OVR. -/
theorem test_overrun :
    let s := (State.reset.regWrite 0x0#4 0x9000#16).regWrite 0x0#4 0x1011#16
    s.regRead 0x1#4 = 0x0005#16 ∧ s.regRead 0x0#4 = 0x9000#16 := by decide

/-! ### Witnesses: for each statement, states and operands that meet its hypotheses -/

/-- The word `w` accepted, with `cw` as its input word. -/
def pendingState (w : Word16) (cw : SymbolWord) : State :=
  { State.reset with cmd := w, phase := .busy (snapshot w cw) }

/-- The all-zero word. -/
def zeros : SymbolWord := #v[0, 0, 0, 0, 0, 0, 0, 0, 0, 0]

/-- The code word c1 of the spec's vectors. -/
def c1 : SymbolWord := #v[3, 0, 5, 4, 1, 2, 3, 4, 5, 6]

/-- c1 with 7 added at position 3 (K4). -/
def c1Plus7 : SymbolWord := #v[3, 0, 1, 4, 1, 2, 3, 4, 5, 6]

/-- c1 with 4 added at position 1 and 2 at position 10 (K8). -/
def c1PlusTwo : SymbolWord := #v[7, 0, 5, 4, 1, 2, 3, 4, 5, 8]

/-- (1,1,1,0,...,0), uncorrectable (K18). -/
def threeOnes : SymbolWord := #v[1, 1, 1, 0, 0, 0, 0, 0, 0, 0]

/-- The word of syndrome (0,0,0,1) (K14). -/
def lastSyndrome : SymbolWord := #v[9, 6, 5, 2, 0, 0, 0, 0, 0, 0]

/-- The word of syndrome (1,0,0,0) (K15). -/
def firstSyndrome : SymbolWord := #v[4, 5, 4, 10, 0, 0, 0, 0, 0, 0]

/-- 15 at position 10 (K19). -/
def outOfRange : SymbolWord := #v[0, 0, 0, 0, 0, 0, 0, 0, 0, 15]

theorem pendingState_phase (w : Word16) (cw : SymbolWord) :
    (pendingState w cw).phase = .busy (snapshot w cw) := rfl

/-- A command that answers a next state of the given kind. -/
theorem exists_next {i : Instr} {s : State} {P : State → Prop} [DecidablePred P]
    (h : (match exec i s with
      | .next t => decide (P t)
      | .fault _ => false
      | .refused _ => false) = true) : ∃ t, exec i s = .next t ∧ P t := by
  cases he : exec i s with
  | next t => exact ⟨t, rfl, by simpa [he] using h⟩
  | fault r => simp [he] at h
  | refused r => simp [he] at h

/-- A step that answers a next state of the given kind. -/
theorem exists_step {s : State} {P : State → Prop} [DecidablePred P]
    (h : (match step s with
      | .next t => decide (P t)
      | .fault _ => false
      | .refused _ => false) = true) : ∃ t, step s = .next t ∧ P t := by
  cases he : step s with
  | next t => exact ⟨t, rfl, by simpa [he] using h⟩
  | fault r => simp [he] at h
  | refused r => simp [he] at h

theorem witness_TableRowsSayWhatDecodes :
    (⟨"DECODE", 0x9000#16, 0xFF00#16⟩ : OpcodeRow) ∈ opcodeTable ∧
      0x90FF#16 &&& 0xFF00#16 = 0x9000#16 := by decide

theorem witness_AssemblerWords :
    (15 ≤ 15 ∧ 15 ≤ 15) ∧ (15 < 16 ∨ 15 < 0) ∧ (15 < 0 ∨ 15 < 16) ∧ 15 < 16 := by decide

/-- Both clauses, at the largest operand in range and the least out of range on either side. -/
theorem witness_AddCommand :
    (snapshot 0x10AA#16 zeros).op = 0x1#4 ∧ 10 ≤ 15 ∧ (10 < 11 ∨ 10 < 0) ∧ (10 < 0 ∨ 10 < 11) ∧
      (pendingState 0x10AA#16 zeros).phase = .busy (snapshot 0x10AA#16 zeros) := by decide

theorem witness_SubCommand :
    (snapshot 0x20AA#16 zeros).op = 0x2#4 ∧ 10 ≤ 15 ∧ (10 < 11 ∨ 10 < 0) ∧ (10 < 0 ∨ 10 < 11) ∧
      (pendingState 0x20AA#16 zeros).phase = .busy (snapshot 0x20AA#16 zeros) := by decide

theorem witness_MulCommand :
    (snapshot 0x30AA#16 zeros).op = 0x3#4 ∧ 10 ≤ 15 ∧ (10 < 11 ∨ 10 < 0) ∧ (10 < 0 ∨ 10 < 11) ∧
      (pendingState 0x30AA#16 zeros).phase = .busy (snapshot 0x30AA#16 zeros) := by decide

/-- The three clauses exclude each other: a in 1..10, a = 0, a above 10. -/
theorem witness_InvCommand :
    (snapshot 0x40AF#16 zeros).op = 0x4#4 ∧ (1 ≤ 10 ∧ 10 ≤ 10) ∧ (0 = 0) ∧ 10 < 11 ∧ 15 ≤ 15 ∧
      (pendingState 0x40AF#16 zeros).phase = .busy (snapshot 0x40AF#16 zeros) := by decide

/-- The three clauses exclude each other, also at (11, 0): that pair is out of range. -/
theorem witness_DivCommand :
    (snapshot 0x50AA#16 zeros).op = 0x5#4 ∧ (10 ≤ 10 ∧ 1 ≤ 1) ∧ (0 ≤ 10 ∧ 0 = 0) ∧
      (10 < 11 ∨ 10 < 0) ∧ ¬ 11 ≤ 10 ∧
      (pendingState 0x50AA#16 zeros).phase = .busy (snapshot 0x50AA#16 zeros) := by decide

theorem witness_SqrtCommand :
    (snapshot 0x6090#16 zeros).op = 0x6#4 ∧ 9 ∈ [0, 1, 3, 4, 5, 9] ∧ 10 ∈ [2, 6, 7, 8, 10] ∧
      10 < 11 ∧ (pendingState 0x6090#16 zeros).phase = .busy (snapshot 0x6090#16 zeros) := by decide

theorem witness_FieldLaws :
    (10 : GF11) ≠ 0 ∧ (9 : GF11) ∈ ([0, 1, 3, 4, 5, 9] : List GF11) ∧
      (2 : GF11) ∈ ([2, 6, 7, 8, 10] : List GF11) := by decide

theorem witness_SyndCommand :
    (snapshot 0x80FF#16 c1).op = 0x8#4 ∧ InRange c1 ∧ ¬ InRange outOfRange ∧
      (pendingState 0x80FF#16 c1).phase = .busy (snapshot 0x80FF#16 c1) := by decide

theorem witness_SyndromeLinearity :
    (∃ code e w : Codeword, syndromesOf code = ⟨0, 0, 0, 0⟩ ∧
      ∀ i : Fin 10, w[i] = code[i] + e[i]) ∧
    (∃ (e : Codeword) (j : Fin 10), (∀ i : Fin 10, i ≠ j → e[i] = 0) ∧ e[j] = 7) :=
  ⟨⟨#v[3, 0, 5, 4, 1, 2, 3, 4, 5, 6], #v[0, 0, 7, 0, 0, 0, 0, 0, 0, 0],
      #v[3, 0, 1, 4, 1, 2, 3, 4, 5, 6], by decide +kernel⟩,
    ⟨#v[0, 0, 0, 0, 0, 0, 0, 0, 0, 7], 9, by decide⟩⟩

theorem witness_MinimumDistanceFive :
    ∃ y : Codeword, syndromesOf y = ⟨0, 0, 0, 0⟩ ∧ ∃ i : Fin 10, y[i] ≠ 0 :=
  ⟨#v[1, 7, 6, 7, 1, 0, 0, 0, 0, 0], by decide +kernel⟩

theorem witness_DecodeCaseZeroErrors :
    (pendingState 0x90FF#16 c1).phase = .busy (snapshot 0x90FF#16 c1) ∧
      (snapshot 0x90FF#16 c1).op = 0x9#4 ∧ InRange c1 ∧ ZeroSyndrome c1 := by decide +kernel

/-- One word for each of the three clauses of case 2. -/
theorem witness_DecodeCaseOneError :
    (InRange lastSyndrome ∧ ¬ ZeroSyndrome lastSyndrome ∧ ZeroLocator lastSyndrome ∧
      synOf lastSyndrome 1 = 0) ∧
    (InRange firstSyndrome ∧ ¬ ZeroSyndrome firstSyndrome ∧ ZeroLocator firstSyndrome ∧
      synOf firstSyndrome 1 ≠ 0 ∧ synOf firstSyndrome 2 = 0) ∧
    (InRange c1Plus7 ∧ ¬ ZeroSyndrome c1Plus7 ∧ ZeroLocator c1Plus7 ∧
      synOf c1Plus7 1 ≠ 0 ∧ synOf c1Plus7 2 ≠ 0) := by decide +kernel

theorem witness_DecodeCaseTwoErrors :
    InRange c1PlusTwo ∧ ¬ ZeroSyndrome c1PlusTwo ∧ TwoErrorLocator c1PlusTwo := by decide +kernel

theorem witness_DecodeCaseUncorrectable :
    InRange threeOnes ∧ ¬ ZeroSyndrome threeOnes ∧ ¬ ZeroLocator threeOnes ∧
      ¬ TwoErrorLocator threeOnes := by decide +kernel

/-- One input word for each of the three clauses: no error, one at position 3, one at each end. -/
theorem witness_CorrectsUpToTwoErrors :
    InRange c1 ∧ ZeroSyndrome c1 ∧ (snapshot 0x9000#16 c1).cw = c1 ∧
    (∀ i : Fin 10, (c1Plus7[i]).toNat =
      if i = (2 : Fin 10) then ((c1[i]).toNat + 7) % 11 else (c1[i]).toNat) ∧
    (∀ i : Fin 10, (c1PlusTwo[i]).toNat =
      if i = (0 : Fin 10) then ((c1[i]).toNat + 4) % 11
      else if i = (9 : Fin 10) then ((c1[i]).toNat + 2) % 11 else (c1[i]).toNat) := by
  decide +kernel

theorem witness_OutcomeOfEverySyndrome :
    ∃ code e w : Codeword, syndromesOf code = ⟨0, 0, 0, 0⟩ ∧
      (∀ i : Fin 10, w[i] = code[i] + e[i]) ∧
      (Finset.univ.filter fun i : Fin 10 => e[i] ≠ 0).card = 3 :=
  ⟨#v[3, 0, 5, 4, 1, 2, 3, 4, 5, 6], #v[1, 1, 1, 0, 0, 0, 0, 0, 0, 0],
    #v[4, 1, 6, 4, 1, 2, 3, 4, 5, 6], by decide +kernel⟩

/-- K8's syndrome for the first clause, the zero syndrome for the second. -/
theorem witness_RootChoiceOnlySwapsPairs :
    diagnoseWith .smaller ⟨6, 2, 6, 2⟩ = .ok (.twoErrors 1 4 10 2) ∧
      diagnoseWith .smaller ⟨0, 0, 0, 0⟩ = .ok .zeroErrors := by decide +kernel

/-- A corrected word, to be decoded again from a second state. -/
theorem witness_DecodingTheOutputAgain :
    (∃ t, exec (.decode 0 0) (pendingState 0x9000#16 c1PlusTwo) = .next t ∧
      t.fault = none ∧ t.cwOut = c1) ∧
    (∃ t, exec (.decode 0 0) (pendingState 0x9000#16 threeOnes) = .next t ∧
      t.fault = none ∧ t.cwOut = threeOnes) ∧
    (snapshot 0x9000#16 c1).cw = c1 :=
  ⟨exists_next (by decide +kernel), exists_next (by decide +kernel), rfl⟩

theorem witness_DecodeOutputWord :
    ∃ t, exec (.decode 15 15) (pendingState 0x90FF#16 c1Plus7) = .next t ∧ t.fault = none :=
  exists_next (by decide +kernel)

theorem witness_CommitReadsOnlyTheSnapshot :
    (pendingState 0x9000#16 c1).phase = .busy (snapshot 0x9000#16 c1) ∧
      { pendingState 0x9000#16 c1 with cmd := 0xFFFF#16, cwIn0 := 0xBBBB#16 }.phase =
        .busy (snapshot 0x9000#16 c1) := ⟨rfl, rfl⟩

theorem witness_CommandFrame :
    ∃ t, exec (.synd 0 0) (pendingState 0x8000#16 c1Plus7) = .next t ∧ t.syn = 0x28A7#16 :=
  exists_next (by decide +kernel)

theorem witness_FaultsArePrecise :
    (∃ t, exec (.decode 0 0) (pendingState 0x9000#16 firstSyndrome) = .next t ∧
      t.fault = some .badPosition) ∧
    ∃ t, engineTurn (pendingState 0x7000#16 zeros) = .next t ∧ t.fault = some .illegalOp := by
  obtain ⟨t, h, hf⟩ := exists_step (s := pendingState 0x7000#16 zeros)
    (P := fun t => t.fault = some .illegalOp) (by decide +kernel)
  exact ⟨exists_next (by decide +kernel), t, by rw [← h]; rfl, hf⟩

theorem witness_SuccessfulCommitStatus :
    ∃ t, exec (.mul 7 8) (pendingState 0x3078#16 zeros) = .next t ∧ t.fault = none :=
  exists_next (by decide +kernel)

/-- A reserved OP and a nonzero RSV for the first clause; the second holds of each. -/
theorem witness_IllegalWordsFault :
    nextEvent (pendingState 0x7AB0#16 zeros) = .engine ∧
    (snapshot 0x7000#16 zeros).op ∈ reservedOps ∧ (snapshot 0x1100#16 zeros).rsv ≠ 0#4 ∧
    ∃ t, step (pendingState 0x7AB0#16 zeros) = .next t ∧ t.fault = some .illegalOp :=
  ⟨rfl, by decide, by decide, exists_step (by decide +kernel)⟩

/-- The state and snapshot of the four statements on fault causes. -/
theorem witness_FaultCauses :
    (pendingState 0x9000#16 lastSyndrome).phase = .busy (snapshot 0x9000#16 lastSyndrome) ∧
    ¬ OutOfRange (.decode 0 0) (snapshot 0x9000#16 lastSyndrome) ∧
    OutOfRange (.div 12 0) (snapshot 0x50C0#16 zeros) ∧
    OutOfRange (.synd 0 0) (snapshot 0x8000#16 outOfRange) := by
  refine ⟨rfl, ?_, .inl ⟨12, by simp [usedOperands], by decide⟩,
    .inr ⟨trivial, by decide⟩⟩
  rintro (⟨v, hv, -⟩ | ⟨-, h⟩)
  · simp [usedOperands] at hv
  · exact h (by decide)

/-- `.word 0x7AB0`, DIV 12, 0 and DIV 0, 0: one word for each clause (R207). -/
theorem witness_FaultPriority :
    (snapshot 0x7AB0#16 zeros).decode = .error (.reservedField 0xA#4) ∧
    (snapshot 0x7000#16 zeros).decode = .error (.reservedOpcode 0x7#4) ∧
    (snapshot 0x50C0#16 zeros).decode = .ok (.div 12 0) ∧
    (snapshot 0x5000#16 zeros).decode = .ok (.div 0 0) ∧
    nextEvent (pendingState 0x50C0#16 zeros) = .engine := by decide

theorem witness_StepRunsTheDecodedCommand :
    (snapshot 0x9000#16 c1).decode = .ok (.decode 0 0) ∧
    { pendingState 0x9000#16 c1 with schedule := [.engine, .reset none] }.schedule =
      [.engine, .reset none] ∧
    (pendingState 0x9000#16 c1).schedule = [] ∧ decode 0x9000#16 = .ok (.decode 0 0) := by decide

theorem witness_IdleEngineHasNoStep :
    State.reset.phase = .idle ∧ State.reset.schedule = [] ∧
    { State.reset with schedule := [.engine] }.schedule = [.engine] := by decide

theorem witness_ReadReturnsTheRegister :
    { State.reset with schedule := [.host (.read 0xF#4)] }.schedule = [.host (.read 0xF#4)] := rfl

theorem witness_CommandIssue :
    { State.reset with schedule := [.host (.write 0x0#4 0xFFFF#16)] }.phase = .idle ∧
    { pendingState 0x9000#16 c1 with schedule := [.host (.write 0x0#4 0x1011#16)] }.phase =
      .busy (snapshot 0x9000#16 c1) := ⟨rfl, rfl⟩

/-- The index ranges of the clauses do not meet. -/
theorem witness_PlainRegisterWrites :
    0xF#4 ∈ [0x1#4, 0x2#4, 0x6#4, 0x7#4, 0x8#4, 0x9#4, 0xA#4, 0xB#4, 0xC#4, 0xD#4, 0xE#4, 0xF#4] ∧
    (∀ i ∈ [0x3#4, 0x4#4, 0x5#4],
      i ∉ [0x1#4, 0x2#4, 0x6#4, 0x7#4, 0x8#4, 0x9#4, 0xA#4, 0xB#4, 0xC#4, 0xD#4, 0xE#4, 0xF#4]) ∧
    { State.reset with schedule := [.host (.write 0x5#4 0xFFFF#16)] }.schedule =
      [.host (.write 0x5#4 0xFFFF#16)] := by decide

theorem witness_SymbolPacking : (1 ≤ 1 ∧ 1 ≤ 10) ∧ (1 ≤ 10 ∧ 10 ≤ 10) := by decide

theorem witness_ResetCycle :
    { pendingState 0x9000#16 c1 with schedule := [.reset (some (.read 0x1#4))] }.schedule =
      [.reset (some (.read 0x1#4))] ∧
    (∀ idx, some (Access.write 0x3#4 0x1234#16) ≠ some (.read idx)) ∧
    (∀ idx, none ≠ some (Access.read idx)) := ⟨rfl, by simp, by simp⟩

/-- The statements about what one step does to a STATUS bit, at a step that changes it. -/
theorem witness_StatusBits :
    (∃ t, step { State.reset with schedule := [.host (.write 0x0#4 0x4000#16)] } = .next t ∧
      t.busy = true) ∧
    (∃ t, step (pendingState 0x4000#16 zeros) = .next t ∧ t.valid = true ∧ t.fsticky = true) ∧
    (∃ t, step { pendingState 0x4000#16 zeros with
        schedule := [.host (.write 0x0#4 0x1011#16)] } = .next t ∧ t.ovr = true) ∧
    ResetNext { State.reset with schedule := [.reset none] } :=
  ⟨exists_step (by decide +kernel), exists_step (by decide +kernel),
    exists_step (by decide +kernel), none, rfl⟩

/-- The premise, and each clause on what is read: RESULT and ERR, the first and the last result
register, from before the accesses, and STATUS after a dropped write to CMD. -/
theorem witness_PendingCommandUndisturbed :
    { pendingState 0x9000#16 c1 with
        schedule := [.host (.write 0x3#4 0#16), .host (.read 0x1#4), .engine] }.schedule =
      [Access.write 0x3#4 0#16, .read 0x1#4].map .host ++ [.engine] ∧
    ∃ t, After 4 { pendingState 0x9000#16 c1 with
        result := 9#16,
        schedule := [.host (.read 0x2#4), .host (.write 0x0#4 0#16), .host (.read 0x1#4),
          .host (.read 0xB#4)] } t ∧
      t.ovr = true ∧ t.reads = [⟨0xB#4, 0#16⟩, ⟨0x1#4, 0x0005#16⟩, ⟨0x2#4, 9#16⟩] :=
  ⟨rfl, _, rfl, rfl, rfl⟩

theorem witness_InputWriteCommutesWithCommit :
    (pendingState 0x9000#16 c1).phase = .busy (snapshot 0x9000#16 c1) ∧
      0x5#4 ∈ [0x3#4, 0x4#4, 0x5#4] := by decide

theorem witness_SameCycleCollision :
    ∃ t0, engineTurn (pendingState 0x10AA#16 zeros) = .next t0 ∧ t0.result = 9#16 := by
  obtain ⟨t, h, hr⟩ := exists_next (i := .add 10 10) (s := pendingState 0x10AA#16 zeros)
    (P := fun t => t.result = 9#16) (by decide +kernel)
  exact ⟨t, by rw [← h]; rfl, hr⟩

/-- One cycle for each clause, ADD 10, 10 committing in it: a write to CMD; writes to the first and to
the last register of CW_IN; reads at index 0x2, which sees RESULT from before, and at 0xF. -/
theorem witness_SameCycleCollision_clauses :
    (∃ t, After 2 { pendingState 0x10AA#16 zeros with
        schedule := (Cycle.mk false (some (.write 0x0#4 0x3078#16)) true).events } t ∧
      t.ovr = true ∧ t.result = 9#16) ∧
    (∃ t, After 2 { pendingState 0x10AA#16 zeros with
        schedule := (Cycle.mk false (some (.write 0x3#4 0xFFFF#16)) true).events } t ∧
      t.cwIn0 = 0xFFFF#16 ∧ t.result = 9#16) ∧
    (∃ t, After 2 { pendingState 0x10AA#16 zeros with
        schedule := (Cycle.mk false (some (.write 0x5#4 0xFFFF#16)) true).events } t ∧
      t.cwIn2 = 0x00FF#16 ∧ t.result = 9#16) ∧
    (∃ t, After 2 { pendingState 0x10AA#16 zeros with
        schedule := (Cycle.mk false (some (.read 0x2#4)) true).events } t ∧
      t.reads = [⟨0x2#4, 0#16⟩] ∧ t.result = 9#16) ∧
    (∃ t, After 2 { pendingState 0x10AA#16 zeros with
        schedule := (Cycle.mk false (some (.read 0xF#4)) true).events } t ∧
      t.reads = [⟨0xF#4, 0#16⟩] ∧ t.result = 9#16) :=
  ⟨⟨_, rfl, rfl, rfl⟩, ⟨_, rfl, rfl, rfl⟩, ⟨_, rfl, rfl, rfl⟩, ⟨_, rfl, rfl, rfl⟩,
    ⟨_, rfl, rfl, rfl⟩⟩

/-- H9: writes to CW_IN while the command is pending, the commit, and a STATUS bit found 0. -/
theorem witness_PollingFindsTheCommit :
    ∃ t, After 2 { pendingState 0x10AA#16 zeros with
        schedule := [.host (.write 0x3#4 0#16), .engine] } t ∧ t.phase = .idle := by
  refine ⟨_, rfl, rfl⟩

/-- A command pending behind a host read, with no reset scheduled, whose word decodes; a reserved word
pending with nothing scheduled; and a command that a reset finds pending. -/
theorem witness_EveryCommandCommits :
    (NoReset [.host (.read 0x1#4)] ∧
      (snapshot 0x10AA#16 zeros).decode = .ok (.add 10 10) ∧
      ∃ u, After 1 { pendingState 0x10AA#16 zeros with schedule := [.host (.read 0x1#4)] } u ∧
        u.phase = .busy (snapshot 0x10AA#16 zeros) ∧ nextEvent u = .engine) ∧
    ((snapshot 0x7000#16 zeros).decode = .error (.reservedOpcode 7#4) ∧
      nextEvent (pendingState 0x7000#16 zeros) = .engine) ∧
    ResetNext { pendingState 0x10AA#16 zeros with schedule := [.reset none] } :=
  ⟨⟨by simp [NoReset], rfl, _, rfl, rfl, rfl⟩, ⟨rfl, rfl⟩, none, rfl⟩

/-- A state of the invariant that is not the reset state: a DECODE pending after an ADD. -/
theorem witness_InvariantKeptByStep :
    { pendingState 0x9000#16 c1 with result := 9#16, valid := true, lastOp := 0x1#4 }.Inv := by
  constructor <;> first
    | decide
    | (intro p hp; cases hp; decide)
    | (unfold AllSymbolsInRange; decide)
    | (unfold ErrorPair; decide)

end Sys2Proof.Tests
end

namespace Sys2Proof.Proofs

open Sys2Proof.Machine Sys2Proof.Spec Sys2Proof.Laws

/-! ### The decoder's command and OP (R82, R83) -/

/-- The command a word's fields decode to is the command of their OP. -/
theorem decodeCmd_opcode {op rsv a b : Sym4} {i : Instr} (h : decodeCmd op rsv a b = .ok i) :
    op = i.opcode := by
  unfold decodeCmd at h
  split at h
  · cases h
  · split at h <;> cases h <;> exact BitVec.eq_of_toNat_eq ‹_›

theorem opcode_mem_opcodes (i : Instr) : i.opcode ∈ opcodes := by
  cases i <;> simp [opcodes, Instr.opcode]

/-! ### What a command computes, by family (R48) -/

/-- The two-operand frame answers a value for RESULT (R111). -/
theorem binaryField_ok {F : GF11 → GF11 → Except CmdFault GF11} {a b : Nat} {w : Writes}
    (h : binaryField F a b = .ok w) : ∃ y, w = .result y := by
  unfold binaryField at h
  split at h
  · split at h <;> cases h
    exact ⟨_, rfl⟩
  · cases h
  · cases h

/-- The one-operand frame answers a value for RESULT (R111). -/
theorem unaryField_ok {F : GF11 → Except CmdFault GF11} {a : Nat} {w : Writes}
    (h : unaryField F a = .ok w) : ∃ y, w = .result y := by
  unfold unaryField at h
  split at h
  · split at h <;> cases h
    exact ⟨_, rfl⟩
  · cases h

/-- SYND answers syndromes (R142). -/
theorem syndCommand_ok {p : Pending} {w : Writes} (h : syndCommand p = .ok w) :
    ∃ S, w = .syndromes S := by
  unfold syndCommand at h
  split at h <;> cases h
  exact ⟨_, rfl⟩

/-- DECODE answers the diagnosis of the syndromes and the word it corrects (R160). -/
theorem decodeCommand_ok {p : Pending} {w : Writes} (h : decodeCommand p = .ok w) :
    ∃ z S L d, w = .decoded z S L d ∧ diagnose S = .ok d := by
  unfold decodeCommand at h
  split at h
  · cases h
  · split at h <;> cases h
    exact ⟨_, _, _, _, rfl, ‹_›⟩

/-- Everything a command can answer when it raises no fault, by its family (R48). -/
theorem computeOf_ok_cases {i : Instr} {p : Pending} {w : Writes} (h : computeOf i p = .ok w) :
    (IsFieldCommand i ∧ ∃ y, w = .result y) ∨
    ((∃ a b, i = .synd a b) ∧ ∃ S, w = .syndromes S) ∨
    ((∃ a b, i = .decode a b) ∧ ∃ z S L d, w = .decoded z S L d ∧ diagnose S = .ok d) := by
  cases i with
  | add | sub | mul | div =>
    rw [computeOf] at h
    exact .inl ⟨trivial, binaryField_ok h⟩
  | inv | sqrt => exact .inl ⟨trivial, unaryField_ok h⟩
  | synd a b => exact .inr (.inl ⟨⟨a, b, rfl⟩, syndCommand_ok h⟩)
  | decode a b => exact .inr (.inr ⟨⟨a, b, rfl⟩, decodeCommand_ok h⟩)

theorem not_isFieldCommand_of_usesWord {i : Instr} (h : UsesWord i) : ¬ IsFieldCommand i := by
  cases i <;> simp_all [UsesWord, IsFieldCommand]

theorem ne_decode_of_isFieldCommand {i : Instr} (h : IsFieldCommand i) (a b : Nat) :
    i ≠ .decode a b := by
  rintro rfl
  exact h

/-- The engine's turn at a pending command, with what decided its commit: the fault code of an
illegal word or of the decoded command, or what that command computed (R47, R206, R208, R209). -/
theorem engineTurn_commit_cases {s t : State} (h : engineTurn s = .next t) :
    (s.phase = .idle ∧ t = s) ∨ ∃ p, s.phase = .busy p ∧
      ((∃ c, t = s.commitFault p c ∧ (p.op ∈ opcodes ∨ c = .illegalOp)) ∨
        ∃ i w, p.op = i.opcode ∧ computeOf i p = .ok w ∧ t = s.commit p w) := by
  obtain hidle | ⟨p, e, hp, -, rfl⟩ | ⟨p, i, hp, hd, he⟩ := engineTurn_cases h
  · exact .inl hidle
  · exact .inr ⟨p, hp, .inl ⟨.illegalOp, rfl, .inr rfl⟩⟩
  · have hop : p.op = i.opcode := decodeCmd_opcode hd
    obtain ⟨q, hq, ⟨c, -, rfl⟩ | ⟨w, hw, rfl⟩⟩ := exec_cases he
    · cases hp.symm.trans hq
      exact .inr ⟨p, hp, .inl ⟨c, rfl, .inl (hop ▸ opcode_mem_opcodes i)⟩⟩
    · cases hp.symm.trans hq
      exact .inr ⟨p, hp, .inr ⟨i, w, hop, hw, rfl⟩⟩

/-! ### The error-locator solver (R166, R167, R171) -/

/-- `div(a, b)` is the element whose product with `b` is `a` (R116). -/
theorem gf_div_ok {a b v : GF11} (h : Gf.div a b = .ok v) : b ≠ 0 ∧ v * b = a := by
  rw [gf_div_table] at h
  split at h <;> cases h
  refine ⟨‹_›, ?_⟩
  revert a b
  decide

/-- A root of R117 squares to its argument, whichever root it is. -/
theorem gf_sqrtWith_ok {root : SqrtRoot} {a r : GF11} (h : Gf.sqrtWith root a = .ok r) :
    r * r = a := by
  cases root <;> revert a r <;> decide

/-- Case 2 answers a position and a magnitude that are not 0 (R166). -/
theorem solveOne_ok {S : Syndromes} {d : Diagnosis} (h : solveOne S = .ok d) :
    ∃ p, d = .oneError p S.s1 ∧ p ≠ 0 ∧ S.s1 ≠ 0 := by
  unfold solveOne at h
  split at h
  · rename_i p hp
    split at h <;> cases h
    exact ⟨p, rfl, ‹_›, (gf_div_ok hp).1⟩
  · cases h

/-- A computation that succeeds has succeeded at its first part. -/
theorem except_bind_ok {ε α β : Type} {x : Except ε α} {f : α → Except ε β} {b : β}
    (h : (x >>= f) = .ok b) : ∃ a, x = .ok a ∧ f a = .ok b := by
  cases x with
  | error e => cases h
  | ok a => exact ⟨a, rfl, h⟩

/-- The equations that the answer of case 3 solves (R167). -/
structure TwoErrorSolution (S : Syndromes) (L : Locator) (r x1 e1 x2 e2 : GF11) : Prop where
  root : r * r = L.d
  double_p : 2 * L.p ≠ 0
  first : x1 * (2 * L.p) = 0 - L.q + r
  second : x2 * (2 * L.p) = 0 - L.q - r
  distinct : x1 - x2 ≠ 0
  second_mag : e2 * (x1 - x2) = x1 * S.s1 - S.s2
  first_mag : e1 = S.s1 - e2

/-- Case 3 answers a solution of its equations (R167). -/
theorem solveTwo_ok {root : SqrtRoot} {S : Syndromes} {L : Locator} {d : Diagnosis}
    (h : solveTwo root S L = .ok d) :
    ∃ r x1 e1 x2 e2, d = .twoErrors x1 e1 x2 e2 ∧ TwoErrorSolution S L r x1 e1 x2 e2 := by
  obtain ⟨r, hr, h⟩ := except_bind_ok h
  obtain ⟨x2, hx2, h⟩ := except_bind_ok h
  obtain ⟨x1, hx1, h⟩ := except_bind_ok h
  obtain ⟨e2, he2, h⟩ := except_bind_ok h
  cases h
  simp only [gf_sub_eq, gf_add_eq, gf_mul_eq] at hx2 hx1 he2
  exact ⟨r, x1, _, x2, e2, rfl, gf_sqrtWith_ok hr, (gf_div_ok hx1).1, (gf_div_ok hx1).2,
    (gf_div_ok hx2).2, (gf_div_ok he2).1, (gf_div_ok he2).2, gf_sub_eq _ _⟩

section LocatorRoots

variable {K : Type} [Field K] {s1 s2 s3 s4 p q c x r : K}

/-- The closed form of R167 solves the locator polynomial. -/
theorem root_of_closed_form (h2p : 2 * p ≠ 0) (hr : r * r = q * q - 4 * (p * c))
    (hx : x * (2 * p) = 0 - q + r) : p * x ^ 2 + q * x + c = 0 := by
  have hp : p ≠ 0 := right_ne_zero_of_mul h2p
  have h2 : (2 : K) ≠ 0 := left_ne_zero_of_mul h2p
  have h : (2 * 2 * p) * (p * x ^ 2 + q * x + c) = 0 := by
    linear_combination (x * (2 * p) + q + r) * hx + hr
  exact (mul_eq_zero.mp h).resolve_left (mul_ne_zero (mul_ne_zero h2 h2) hp)

/-- A root of the locator polynomial is not the ratio of the first two syndromes: with S2 = x·S1 the
polynomial's value is the square of x²·S1 - S3, and P is 0 where that is 0. -/
theorem locator_root_ne_ratio (hp : p = s2 * s2 - s1 * s3) (hq : q = s1 * s4 - s2 * s3)
    (hc : c = s3 * s3 - s2 * s4) (hP : p ≠ 0) (hx : p * x ^ 2 + q * x + c = 0) :
    x * s1 - s2 ≠ 0 := by
  intro h
  obtain rfl : s2 = x * s1 := (sub_eq_zero.mp h).symm
  subst hp hq hc
  have hsq : (x ^ 2 * s1 - s3) ^ 2 = 0 := by linear_combination hx
  have h3 : x ^ 2 * s1 - s3 = 0 := pow_eq_zero_iff two_ne_zero |>.mp hsq
  exact hP (by linear_combination s1 * h3)

/-- The algebra of R171, in any field: a position 0 would make R 0, and a magnitude 0 would make the
position of the other error the ratio of S2 and S1. -/
theorem two_errors_ne_zero {x1 x2 e1 e2 : K} (hp : p = s2 * s2 - s1 * s3)
    (hq : q = s1 * s4 - s2 * s3) (hc : c = s3 * s3 - s2 * s4) (hR : c ≠ 0) (h2p : 2 * p ≠ 0)
    (hr : r * r = q * q - 4 * (p * c)) (hx1 : x1 * (2 * p) = 0 - q + r)
    (hx2 : x2 * (2 * p) = 0 - q - r) (he2 : e2 * (x1 - x2) = x1 * s1 - s2) (he1 : e1 = s1 - e2) :
    x1 ≠ 0 ∧ e1 ≠ 0 ∧ x2 ≠ 0 ∧ e2 ≠ 0 := by
  have hP : p ≠ 0 := right_ne_zero_of_mul h2p
  have root1 := root_of_closed_form h2p hr hx1
  have root2 := root_of_closed_form h2p (by rw [neg_mul_neg, hr]) (hx2.trans (sub_eq_add_neg ..))
  have he1' : e1 * (x1 - x2) = -(x2 * s1 - s2) := by
    rw [he1]
    linear_combination -he2
  refine ⟨?_, ?_, ?_, ?_⟩
  · rintro rfl
    exact hR (by linear_combination root1)
  · rintro rfl
    exact locator_root_ne_ratio hp hq hc hP root2 (by linear_combination he1')
  · rintro rfl
    exact hR (by linear_combination root2)
  · rintro rfl
    exact locator_root_ne_ratio hp hq hc hP root1 (by linear_combination -he2)

end LocatorRoots

/-- R171: the positions and magnitudes of case 3 are not 0. -/
theorem TwoErrorSolution.ne_zero {S : Syndromes} {r x1 e1 x2 e2 : GF11}
    (h : TwoErrorSolution S (locatorOf S) r x1 e1 x2 e2) (hR : (locatorOf S).r ≠ 0) :
    x1 ≠ 0 ∧ e1 ≠ 0 ∧ x2 ≠ 0 ∧ e2 ≠ 0 := by
  have : Fact (Nat.Prime 11) := ⟨by norm_num⟩
  obtain ⟨hr, h2p, hx1, hx2, -, he2, he1⟩ := h
  rw [locatorOf_eq] at hr h2p hx1 hx2 hR
  exact two_errors_ne_zero (K := ZMod 11) rfl rfl rfl hR h2p hr hx1 hx2 he2 he1

/-! ### The ranges of what a command writes (R43) -/

theorem errorPair_symbol {x e : GF11} (hx : x ≠ 0) (he : e ≠ 0) :
    ErrorPair (symbol x) (symbol e) := by
  have := Fin.val_ne_zero_iff.mpr hx
  have := Fin.val_ne_zero_iff.mpr he
  right
  simp only [symbol_toNat]
  omega

theorem errorPair_zero : ErrorPair (symbol 0) (symbol 0) := .inl ⟨rfl, rfl⟩

/-- Each pair of ERR that a diagnosis writes is no pair or a real one (R38, R43, R166, R171). -/
theorem diagnose_errorPairs {S : Syndromes} {d : Diagnosis} (h : diagnose S = .ok d) :
    ErrorPair (nibble d.errWord 0) (nibble d.errWord 1) ∧
      ErrorPair (nibble d.errWord 2) (nibble d.errWord 3) := by
  simp only [diagnose, diagnoseWith] at h
  split_ifs at h with hzero hone htwo
  · cases h
    simpa [Diagnosis.errWord, packElements] using errorPair_zero
  · obtain ⟨x, rfl, hx, he⟩ := solveOne_ok h
    simpa [Diagnosis.errWord, packElements] using ⟨errorPair_symbol hx he, errorPair_zero⟩
  · obtain ⟨r, x1, e1, x2, e2, rfl, hsol⟩ := solveTwo_ok h
    obtain ⟨-, hR, -⟩ := htwo
    obtain ⟨hx1, he1, hx2, he2⟩ := hsol.ne_zero hR
    simpa [Diagnosis.errWord, packElements] using
      ⟨errorPair_symbol hx1 he1, errorPair_symbol hx2 he2⟩
  · cases h
    simpa [Diagnosis.errWord, packElements] using errorPair_zero

theorem allSymbolsInRange_pack4 {n0 n1 n2 n3 : Sym4} (h0 : n0.toNat ≤ 10) (h1 : n1.toNat ≤ 10)
    (h2 : n2.toNat ≤ 10) (h3 : n3.toNat ≤ 10) : AllSymbolsInRange (pack4 n0 n1 n2 n3) := by
  intro k
  fin_cases k
  · simpa using h0
  · simpa using h1
  · simpa using h2
  · simpa using h3

theorem symbol_le (x : GF11) : (symbol x).toNat ≤ 10 := by
  rw [symbol_toNat]
  omega

theorem allSymbolsInRange_packElements (x0 x1 x2 x3 : GF11) :
    AllSymbolsInRange (packElements x0 x1 x2 x3) :=
  allSymbolsInRange_pack4 (symbol_le x0) (symbol_le x1) (symbol_le x2) (symbol_le x3)

theorem symbols_le (z : Codeword) (i : Nat) (h : i < 10) : ((symbols z)[i]).toNat ≤ 10 := by
  simpa [symbols] using symbol_le z[i]

theorem packElements_result_le (y : GF11) : (packElements y 0 0 0).toNat ≤ 10 := by
  rw [packElements, pack4_toNat]
  simp only [symbol_toNat, Fin.val_zero]
  omega

theorem pack4_low_lt (n0 n1 : Sym4) : (pack4 n0 n1 0#4 0#4).toNat < 256 := by
  rw [pack4_toNat]
  simp only [BitVec.toNat_zero]
  omega

/-! ### The invariant -/

/-- Settles O56: every field of the reset state is 0. -/
theorem invariantAtReset : Obligations.InvariantAtReset where
  result_range := by decide
  cwIn2_high := by decide
  cwOut0_range := allSymbolsInRange_packElements 0 0 0 0
  cwOut1_range := allSymbolsInRange_packElements 0 0 0 0
  cwOut2_range := allSymbolsInRange_packElements 0 0 0 0
  cwOut2_high := by decide
  syn_range := allSymbolsInRange_packElements 0 0 0 0
  loc_range := allSymbolsInRange_packElements 0 0 0 0
  err_first := .inl (by decide)
  err_second := .inl (by decide)
  before_commit := by decide
  fault_sticky := by decide
  class_decode := by decide
  reserved_illegal := by decide
  pending_word := by rintro p ⟨⟩

/-- The invariant says nothing of what the outside world does next. -/
theorem inv_setSchedule {s : State} (h : s.Inv) (sch : List Event) :
    { s with schedule := sch }.Inv := { h with }

/-- A reset cycle leaves the registers of the reset state (R230). -/
theorem resetCycle_inv (s : State) (a : Option Access) : (s.resetCycle a).Inv := by
  have h : State.reset.Inv := invariantAtReset
  obtain hr | ⟨idx, v, hr⟩ := resetCycle_cases s a <;> rw [hr]
  · exact { h with }
  · exact { h with }

/-- A host access writes no register of the invariant but CW_IN2, whose high byte it discards, and
CMD together with the pending snapshot (R45, R46). -/
theorem access_inv {s : State} (h : s.Inv) (a : Access) : (s.access a).Inv := by
  obtain ⟨idx, v, ha⟩ | ⟨v, -, ha⟩ | ⟨p, -, ha⟩ | ⟨v, ha⟩ | ⟨v, ha⟩ | ⟨v, ha⟩ | ha :=
    access_cases s a <;> rw [ha]
  · exact { h with }
  · exact { h with pending_word := by rintro p ⟨⟩; exact ⟨rfl, rfl, rfl, rfl⟩ }
  · exact { h with }
  · exact { h with }
  · exact { h with }
  · refine { h with cwIn2_high := ?_ }
    simp only [and_lowByte, BitVec.toNat_ofNat]
    omega
  · exact h

/-- A fault commit keeps the invariant when a reserved opcode faults ILLEGAL_OP (R206, R208). -/
theorem commitFault_inv {s : State} (h : s.Inv) {p : Pending} {c : CmdFault}
    (hc : p.op ∈ opcodes ∨ c = .illegalOp) : (s.commitFault p c).Inv :=
  { h with
    before_commit := nofun
    fault_sticky := fun _ => rfl
    class_decode := fun hcls => absurd rfl hcls
    reserved_illegal := fun _ hop => congrArg some (hc.resolve_left hop)
    pending_word := nofun }

/-- The STATUS fields of a successful commit (R47, R209). -/
def successStatus (s : State) (c : Option Classification) (op : Sym4) : State :=
  { s with fault := none, cls := c, lastOp := op, valid := true, phase := .idle }

/-- A successful commit is its STATUS fields and the result registers of its family (R209). -/
theorem commit_eq_writeResults (s : State) (p : Pending) (w : Writes) :
    s.commit p w = (successStatus s w.cls p.op).writeResults w := by
  cases w <;> rfl

/-- The STATUS fields of a successful commit agree with each other (R31, R83). -/
theorem successStatus_inv {s : State} (h : s.Inv) {c : Option Classification} {op : Sym4}
    (hop : op ∈ opcodes) (hc : c ≠ none → op = 0x9#4) : (successStatus s c op).Inv :=
  { h with
    before_commit := nofun
    fault_sticky := fun hf => absurd rfl hf
    class_decode := fun hcls => ⟨hc hcls, rfl⟩
    reserved_illegal := fun _ hres => absurd hop hres
    pending_word := nofun }

/-- The result registers that a command writes are in their ranges (R43). -/
theorem writeResults_inv {s : State} (h : s.Inv) (hv : s.valid = true) {i : Instr} {p : Pending}
    {w : Writes} (hw : computeOf i p = .ok w) : (s.writeResults w).Inv := by
  have not_before {P : Prop} : s.valid = false → P := by simp [hv]
  obtain ⟨-, y, rfl⟩ | ⟨-, S, rfl⟩ | ⟨-, z, S, L, d, rfl, hd⟩ := computeOf_ok_cases hw
  · exact { h with
      result_range := packElements_result_le y
      before_commit := not_before }
  · exact { h with
      syn_range := allSymbolsInRange_packElements S.s1 S.s2 S.s3 S.s4
      before_commit := not_before }
  · obtain ⟨hfirst, hsecond⟩ := diagnose_errorPairs hd
    have sym (i : Nat) (hi : i < 10 := by decide) := symbols_le z i hi
    exact { h with
      cwOut0_range := allSymbolsInRange_pack4 (sym 0) (sym 1) (sym 2) (sym 3)
      cwOut1_range := allSymbolsInRange_pack4 (sym 4) (sym 5) (sym 6) (sym 7)
      cwOut2_range := allSymbolsInRange_pack4 (sym 8) (sym 9) (by decide) (by decide)
      cwOut2_high := pack4_low_lt ..
      syn_range := allSymbolsInRange_packElements S.s1 S.s2 S.s3 S.s4
      loc_range := allSymbolsInRange_packElements L.p L.q L.r L.d
      err_first := hfirst
      err_second := hsecond
      before_commit := not_before }

/-- Only DECODE records a class (R31). -/
theorem computeOf_cls {i : Instr} {p : Pending} {w : Writes} (hw : computeOf i p = .ok w) :
    w.cls ≠ none ↔ ∃ a b, i = .decode a b := by
  obtain ⟨hi, y, rfl⟩ | ⟨⟨a, b, rfl⟩, S, rfl⟩ | ⟨hi, z, S, L, d, rfl, -⟩ := computeOf_ok_cases hw
  · simpa [Writes.cls] using ne_decode_of_isFieldCommand hi
  · simp [Writes.cls]
  · simpa [Writes.cls] using hi

/-- The commit of any pending word keeps the invariant (R47). -/
theorem engineTurn_inv {s t : State} (h : s.Inv) (ht : engineTurn s = .next t) : t.Inv := by
  obtain ⟨-, rfl⟩ | ⟨p, -, ⟨c, rfl, hc⟩ | ⟨i, w, hop, hw, rfl⟩⟩ := engineTurn_commit_cases ht
  · exact h
  · exact commitFault_inv h hc
  · rw [commit_eq_writeResults]
    refine writeResults_inv (successStatus_inv h (hop ▸ opcode_mem_opcodes i) fun hcls => ?_) rfl hw
    obtain ⟨a, b, rfl⟩ := (computeOf_cls hw).mp hcls
    exact hop

/-- Settles O57: the engine's turn, a host access and a reset cycle each keep the invariant. -/
theorem invariantKeptByStep : Obligations.InvariantKeptByStep := by
  intro s t h hstep
  obtain ⟨-, ht⟩ | ⟨rest, -, ht⟩ | ⟨a, rest, -, rfl⟩ | ⟨a, rest, -, rfl⟩ := step_cases hstep
  · exact engineTurn_inv h ht
  · exact engineTurn_inv (inv_setSchedule h rest) ht
  · exact access_inv (inv_setSchedule h rest) a
  · exact resetCycle_inv _ a

/-! ### What a commit reads and writes (R41, R48) -/

/-- The snapshot decides what a command commits: one fault, or one set of writes, in every state in
which it is pending (R41). -/
theorem exec_busy (i : Instr) (p : Pending) :
    (∃ c, computeOf i p = .error c ∧
      ∀ s : State, s.phase = .busy p → exec i s = .next (s.commitFault p c)) ∨
    ∃ w, computeOf i p = .ok w ∧
      ∀ s : State, s.phase = .busy p → exec i s = .next (s.commit p w) := by
  simp only [exec_eq_runCommand]
  cases hf : computeOf i p with
  | error c => exact .inl ⟨c, rfl, fun s hs => runCommand_error hs hf⟩
  | ok w => exact .inr ⟨w, rfl, fun s hs => runCommand_ok hs hf⟩

/-- Settles O27: the snapshot decides which fault is recorded or what is written, and a family's
commit writes that and nothing of the state it is committed in. -/
theorem commitReadsOnlyTheSnapshot : Obligations.CommitReadsOnlyTheSnapshot := by
  intro i s1 s2 p h1 h2
  obtain ⟨c, -, hexec⟩ | ⟨w, hw, hexec⟩ := exec_busy i p <;>
    refine ⟨_, _, hexec s1 h1, hexec s2 h2, rfl, rfl, rfl, ?_⟩
  · rintro ⟨⟩
  · rintro -
    obtain ⟨hi, y, rfl⟩ | ⟨⟨a, b, rfl⟩, S, rfl⟩ | ⟨⟨a, b, rfl⟩, z, S, L, d, rfl, -⟩ :=
      computeOf_ok_cases hw
    · exact ⟨fun _ => rfl, fun hu => absurd hi (not_isFieldCommand_of_usesWord hu),
        fun ⟨a, b, hd⟩ => absurd hd (ne_decode_of_isFieldCommand hi a b)⟩
    · exact ⟨nofun, fun _ => rfl, nofun⟩
    · exact ⟨nofun, fun _ => rfl, fun _ => ⟨rfl, rfl, rfl, rfl, rfl⟩⟩

/-- Settles O28: a fault commit writes no register, and a successful one those of its family. -/
theorem commandFrame : Obligations.CommandFrame := by
  intro i s t h
  obtain ⟨p, -, ⟨c, -, rfl⟩ | ⟨w, hw, rfl⟩⟩ := exec_cases h
  · simp
  · obtain ⟨hi, y, rfl⟩ | ⟨⟨a, b, rfl⟩, S, rfl⟩ | ⟨⟨a, b, rfl⟩, z, S, L, d, rfl, -⟩ :=
      computeOf_ok_cases hw
    · have hword : ¬ UsesWord i := fun hu => not_isFieldCommand_of_usesWord hu hi
      simp [hword, Writes.cls]
    · simp [IsFieldCommand, Writes.cls]
    · simp [IsFieldCommand]

/-! ### The STATUS word (R25) -/

/-- Each bit of the STATUS word, the fields from bit 0 up (R25). -/
theorem statusWord_getLsbD (s : State) {i : Nat} (hi : i < 16) :
    s.statusWord.getLsbD i =
      if i = 0 then s.busy else if i = 1 then s.valid else if i = 2 then s.ovr
      else if i = 3 then false
      else if i < 7 then (faultBits s.fault).getLsbD (i - 4)
      else if i = 7 then s.fsticky
      else if i < 11 then (classBits s.cls).getLsbD (i - 8)
      else if i = 11 then false
      else s.lastOp.getLsbD (i - 12) := by
  simp only [State.statusWord, BitVec.getLsbD_append, BitVec.getLsbD_ofBool]
  interval_cases i <;> simp

/-- The fields of several bits: FAULT, CLASS and LAST_OP (R29, R31, R32). -/
theorem statusWord_extract (s : State) :
    s.statusWord.extractLsb' 4 3 = faultBits s.fault ∧
    s.statusWord.extractLsb' 8 3 = classBits s.cls ∧
    s.statusWord.extractLsb' 12 4 = s.lastOp := by
  refine ⟨?_, ?_, ?_⟩
  all_goals
    apply BitVec.eq_of_getLsbD_eq
    intro i hi
    rw [BitVec.getLsbD_extractLsb', statusWord_getLsbD s (by omega)]
    interval_cases i <;> rfl

/-- BUSY is bit 0, and 1 exactly when PHASE = BUSY (R26). -/
theorem statusWord_busy (s : State) :
    s.statusWord.getLsbD 0 = true ↔ ∃ p, s.phase = .busy p := by
  rw [statusWord_getLsbD s (by decide), if_pos rfl]
  cases hp : s.phase with
  | idle => simp [busy_idle hp]
  | busy p => simp [busy_busy hp]

/-- Settles O41: the word is the concatenation of its fields, and each code is its field's. -/
theorem statusWordFields : Obligations.StatusWordFields := by
  intro s
  have hbit (i : Nat) (hi : i < 16) := statusWord_getLsbD s hi
  obtain ⟨hfault, hcls, hlast⟩ := statusWord_extract s
  refine ⟨statusWord_busy s, hbit 1 (by decide), hbit 2 (by decide), hbit 3 (by decide), ?_,
    hbit 7 (by decide), ?_, hbit 11 (by decide), hlast⟩
  · rw [hfault]
    rcases s.fault with _ | c
    · rfl
    · cases c <;> rfl
  · rw [hcls]
    rcases s.cls with _ | c
    · rfl
    · cases c <;> rfl

/-! ### What one step does to the STATUS bits (R26 to R30) -/

/-- A step performs the next event with that event taken off the schedule (R69). -/
theorem step_eq_perform (s : State) :
    step s = perform (nextEvent s) { s with schedule := s.schedule.tail } := by
  cases hs : s.schedule with
  | nil =>
    have : { s with schedule := [] } = s := by rw [← hs]
    simp [step_of_nil hs, nextEvent, hs, perform, this]
  | cons e rest => simp [step, nextEvent, hs]

/-- `step_eq_perform`, by the kind of the event. -/
theorem step_cases_nextEvent {s t : State} (h : step s = .next t) :
    (∃ a, nextEvent s = .host a ∧ t = State.access { s with schedule := s.schedule.tail } a) ∨
    (nextEvent s = .engine ∧ engineTurn { s with schedule := s.schedule.tail } = .next t) ∨
    (ResetNext s ∧ ∃ u : State, t = u.resetBlock ∨ ∃ idx v, t = u.resetBlock.giveHost idx v) := by
  rw [step_eq_perform] at h
  cases he : nextEvent s with
  | host a =>
    rw [he] at h
    exact .inl ⟨a, rfl, (Host.Outcome.next.inj h).symm⟩
  | engine =>
    rw [he] at h
    exact .inr (.inl ⟨rfl, h⟩)
  | reset a =>
    rw [he] at h
    cases Host.Outcome.next.inj h
    exact .inr (.inr ⟨⟨a, he⟩, _, resetCycle_cases _ a⟩)

theorem access_cmdWrite (s : State) (v : Word16) : s.access (.write 0x0#4 v) = s.issue v := rfl

/-- Only a write to CMD changes PHASE or OVR (R44, R45). -/
theorem access_of_not_cmdWrite {a : Access} (h : ¬ ∃ v, a = .write 0x0#4 v) (s : State) :
    (s.access a).phase = s.phase ∧ (s.access a).ovr = s.ovr := by
  cases a with
  | read idx => exact ⟨rfl, rfl⟩
  | write idx v =>
    have hidx : regAt idx ≠ some .cmd := by
      have h0 : idx ≠ 0x0#4 := fun h0 => h ⟨v, by rw [h0]⟩
      clear h
      revert idx
      decide
    simp only [State.access, State.regWrite]
    split
    · contradiction
    all_goals exact ⟨rfl, rfl⟩

/-- PHASE and OVR after a host access: a write to CMD makes the block BUSY, or sets OVR when it
already is (R46). -/
theorem access_phase_ovr (s : State) (a : Access) :
    ((∃ p, (s.access a).phase = .busy p) ↔
      (∃ p, s.phase = .busy p) ∨ ∃ v, a = .write 0x0#4 v) ∧
    ((s.access a).ovr = true ↔
      s.ovr = true ∨ ((∃ v, a = .write 0x0#4 v) ∧ ∃ p, s.phase = .busy p)) := by
  by_cases ha : ∃ v, a = .write 0x0#4 v
  · obtain ⟨v, rfl⟩ := ha
    rw [access_cmdWrite]
    cases hp : s.phase <;> simp [State.issue, hp]
  · obtain ⟨hphase, hovr⟩ := access_of_not_cmdWrite ha s
    simp [ha, hphase, hovr]

/-- A host access writes neither VALID nor FSTICKY (R27, R30). -/
theorem access_valid_fsticky (s : State) (a : Access) :
    (s.access a).valid = s.valid ∧ (s.access a).fsticky = s.fsticky := by
  obtain ⟨idx, v, ha⟩ | ⟨v, -, ha⟩ | ⟨p, -, ha⟩ | ⟨v, ha⟩ | ⟨v, ha⟩ | ⟨v, ha⟩ | ha :=
    access_cases s a <;> rw [ha] <;> exact ⟨rfl, rfl⟩

/-- The STATUS bits after the engine's turn (R26, R27, R28, R30). -/
theorem engineTurn_bits {s t : State} (h : engineTurn s = .next t) :
    t.phase = .idle ∧ t.ovr = s.ovr ∧
    (t.valid = true ↔ s.valid = true ∨ ∃ p, s.phase = .busy p) ∧
    (t.fsticky = true ↔ s.fsticky = true ∨ ((∃ p, s.phase = .busy p) ∧ t.fault ≠ none)) := by
  obtain ⟨hp, rfl⟩ | ⟨p, hp, ⟨c, rfl, -⟩ | ⟨i, w, -, -, rfl⟩⟩ := engineTurn_commit_cases h <;>
    simp [hp]

/-- Settles O47, by the kind of the event. -/
theorem busyBit : Obligations.BusyBit := by
  refine ⟨statusWord_busy, fun s t h => ?_⟩
  rw [statusWord_busy, statusWord_busy]
  obtain ⟨a, he, rfl⟩ | ⟨he, ht⟩ | ⟨hr, u, ht⟩ := step_cases_nextEvent h
  · simp [ResetNext, CmdWriteNext, he, access_phase_ovr]
  · simp [he, (engineTurn_bits ht).1]
  · obtain rfl | ⟨idx, v, rfl⟩ := ht <;> simp [hr]

/-- Settles O48, by the kind of the event; the last part is a clause of the invariant. -/
theorem validBit : Obligations.ValidBit := by
  refine ⟨rfl, fun s t h => ?_, fun s hinv hv => ?_⟩
  · obtain ⟨a, he, rfl⟩ | ⟨he, ht⟩ | ⟨hr, u, ht⟩ := step_cases_nextEvent h
    · simp [ResetNext, he, access_valid_fsticky]
    · simp [ResetNext, he, engineTurn_bits ht]
    · obtain rfl | ⟨idx, v, rfl⟩ := ht <;> simp [hr]
  · obtain ⟨hresult, h0, h1, h2, hsyn, hloc, herr, -⟩ := hinv.before_commit hv
    exact ⟨hresult, h0, h1, h2, hsyn, hloc, herr⟩

/-- Settles O49, by the kind of the event. -/
theorem overrunBit : Obligations.OverrunBit := by
  refine ⟨rfl, fun s t h => ?_⟩
  obtain ⟨a, he, rfl⟩ | ⟨he, ht⟩ | ⟨hr, u, ht⟩ := step_cases_nextEvent h
  · simp [ResetNext, CmdWriteNext, he, access_phase_ovr]
  · simp [ResetNext, CmdWriteNext, he, engineTurn_bits ht]
  · obtain rfl | ⟨idx, v, rfl⟩ := ht <;> simp [hr]

/-- Settles O50, by the kind of the event. -/
theorem faultStickyBit : Obligations.FaultStickyBit := by
  refine ⟨rfl, fun s t h => ?_⟩
  obtain ⟨a, he, rfl⟩ | ⟨he, ht⟩ | ⟨hr, u, ht⟩ := step_cases_nextEvent h
  · simp [ResetNext, he, access_valid_fsticky]
  · obtain ⟨-, -, -, hsticky⟩ := engineTurn_bits ht
    simpa [ResetNext, he] using hsticky
  · obtain rfl | ⟨idx, v, rfl⟩ := ht <;> simp [hr]

/-! ### The step and the register port, event by event -/

theorem engineTurn_of_idle {s : State} (hp : s.phase = .idle) : engineTurn s = .next s := by
  simp [engineTurn, hp]

theorem engineTurn_of_decode {s : State} {p : Pending} {i : Instr} (hp : s.phase = .busy p)
    (hd : p.decode = .ok i) : engineTurn s = exec i s := by
  simp [engineTurn, hp, hd]

/-- Settles O37: each of the three steps is the engine's turn with the command pending. -/
theorem stepRunsTheDecodedCommand : Obligations.StepRunsTheDecodedCommand := by
  refine ⟨fun s p i hp hd => ⟨fun rest hs => ?_, fun hs => ?_⟩, fun s w i hd => ?_⟩
  · rw [step_of_engine hs]
    exact engineTurn_of_decode hp hd
  · rw [step_of_nil hs, engineTurn_of_decode hp hd]
  · have hw : BitVec.ofNat 16 (w.toNat % 2 ^ 16) = w := by
      rw [Nat.mod_eq_of_lt w.isLt, BitVec.ofNat_toNat, BitVec.setWidth_eq]
    rw [step_of_engine (withFetchWord_schedule ..), State.withFetchWord, hw]
    exact engineTurn_of_decode (accept_phase ..) hd

/-- Settles O38: while IDLE the engine's turn is no change, and a command has no snapshot to run
on. -/
theorem idleEngineHasNoStep : Obligations.IdleEngineHasNoStep := by
  refine fun s hp => ⟨fun rest hs => ?_, fun hs => ?_, fun i => ?_⟩
  · rw [step_of_engine hs]
    exact engineTurn_of_idle hp
  · rw [step_of_nil hs, engineTurn_of_idle hp]
  · rw [exec_eq_runCommand, runCommand_idle _ hp]

/-- The register at each index, in the order of R23, and 0 at the reserved ones (R39). -/
theorem regRead_eq_getD (s : State) (idx : RegIdx) :
    s.regRead idx =
      [s.cmd, s.statusWord, s.result, s.cwIn0, s.cwIn1, s.cwIn2, s.cwOut0, s.cwOut1, s.cwOut2,
        s.syn, s.loc, s.err, 0#16, 0#16, 0#16, 0#16].getD idx.toNat 0#16 := by
  obtain ⟨n, hn⟩ := idx
  interval_cases n <;> rfl

/-- Settles O40: the access is the read of the register at the index. -/
theorem readReturnsTheRegister : Obligations.ReadReturnsTheRegister := by
  intro s idx rest hs
  rw [step_of_host hs, State.access, regRead_eq_getD]
  rfl

/-- Settles O42: the access is the issue of the word, by PHASE. -/
theorem commandIssue : Obligations.CommandIssue := by
  refine fun s v rest hs => ⟨fun hp => ?_, fun p hp => ?_⟩ <;>
    rw [step_of_host hs, access_cmdWrite, State.issue, hp]
  rfl

/-- A write to a read-only register or a reserved index is ignored (R39, R45). -/
theorem regWrite_of_ignored {idx : RegIdx} (s : State) (v : Word16)
    (h : idx ∈ [0x1#4, 0x2#4, 0x6#4, 0x7#4, 0x8#4, 0x9#4, 0xA#4, 0xB#4, 0xC#4, 0xD#4, 0xE#4,
      0xF#4]) :
    s.regWrite idx v = s := by
  simp only [List.mem_cons, List.not_mem_nil, or_false] at h
  rcases h with rfl | rfl | rfl | rfl | rfl | rfl | rfl | rfl | rfl | rfl | rfl | rfl <;> rfl

/-- Settles O43: the access is the write at the index. -/
theorem plainRegisterWrites : Obligations.PlainRegisterWrites := by
  intro s idx v rest hs
  rw [step_of_host hs, State.access, ← and_lowByte]
  refine ⟨fun h => ?_, ?_, ?_, ?_⟩
  · rw [regWrite_of_ignored _ v h]
  all_goals
    rintro rfl
    rfl

/-- Settles O46, at each of the 16 indices. -/
theorem resetStateReadsZero : Obligations.ResetStateReadsZero :=
  ⟨rfl, by decide⟩

end Sys2Proof.Proofs

namespace Sys2Proof.Proofs

open Sys2Proof.Machine Sys2Proof.Spec Sys2Proof.Laws

/-! ### The symbols of CW_IN and CW_OUT in their registers (R40, R63) -/

/-- Symbol `i`, counted from 0, is field `i mod 4` of register `i / 4` (R63). -/
theorem unpackWord_getElem (w0 w1 w2 : Word16) {i : Nat} (hi : i < 10) :
    (unpackWord w0 w1 w2)[i] = nibble ([w0, w1, w2].getD (i / 4) 0#16) (i % 4) := by
  interval_cases i <;> rfl

/-- CW_IN and CW_OUT stand at three indices each, from 0x3 and from 0x6 (R23). -/
theorem regRead_codewords (s : State) {k : Nat} (hk : k < 3) :
    s.regRead (BitVec.ofNat 4 (0x3 + k)) = [s.cwIn0, s.cwIn1, s.cwIn2].getD k 0#16 ∧
    s.regRead (BitVec.ofNat 4 (0x6 + k)) = [s.cwOut0, s.cwOut1, s.cwOut2].getD k 0#16 := by
  interval_cases k <;> exact ⟨rfl, rfl⟩

/-- Settles O44: the symbol's field of the three registers, which the host reads at their indices. -/
theorem symbolPacking : Obligations.SymbolPacking := by
  intro s i h
  have hi : i - 1 < 10 := by omega
  obtain ⟨hin, hout⟩ := regRead_codewords s (k := (i - 1) / 4) (by omega)
  rw [hin, hout]
  exact ⟨unpackWord_getElem _ _ _ hi, unpackWord_getElem _ _ _ hi⟩

/-! ### Runs of host accesses (R69) -/

theorem after_succ {n : Nat} {s u t : State} (h : step s = .next u) (ht : After n u t) :
    After (n + 1) s t :=
  (run_succ_next h).trans ht

/-- What is scheduled next plays no part in a host access. -/
theorem access_setSchedule (s : State) (a : Access) (sch : List Event) :
    State.access { s with schedule := sch } a = { s.access a with schedule := sch } := by
  cases a with
  | read idx => rfl
  | write idx v =>
    simp only [State.access, State.regWrite]
    split
    · cases hp : s.phase <;> simp only [State.issue, hp]
      rfl
    all_goals rfl

/-- `step_of_host`, with the access made to the state apart from its schedule. -/
theorem step_host_cons (s : State) (a : Access) (rest : List Event) :
    step { s with schedule := .host a :: rest } = .next { s.access a with schedule := rest } :=
  (step_of_host rfl).trans (congrArg Host.Outcome.next (access_setSchedule s a rest))

/-- A run through scheduled host accesses performs them in order. -/
theorem after_accesses {accs : List Access} {rest : List Event} {s : State}
    (h : s.schedule = accs.map .host ++ rest) :
    After accs.length s (accs.foldl State.access { s with schedule := rest }) := by
  induction accs generalizing s with
  | nil =>
    have hs : { s with schedule := rest } = s := by rw [← List.nil_append rest, ← List.map_nil, ← h]
    exact congrArg Host.Outcome.next hs.symm
  | cons a accs ih =>
    refine after_succ (step_of_host h) ?_
    rw [List.foldl_cons, access_setSchedule s a rest, access_setSchedule]
    exact ih rfl

/-! ### What host accesses leave of a state with a command pending (R65, R71) -/

/-- `u` is `s` but for OVR, which may have been set, CW_IN, and what the host has read. -/
def SameButInputs (s u : State) : Prop :=
  ∃ o c0 c1 c2 rds, (o = s.ovr ∨ o = true) ∧
    u = { s with ovr := o, cwIn0 := c0, cwIn1 := c1, cwIn2 := c2, reads := rds }

namespace SameButInputs

theorem refl (s : State) : SameButInputs s s := ⟨_, _, _, _, _, .inl rfl, rfl⟩

theorem trans {s u t : State} (h : SameButInputs s u) (h' : SameButInputs u t) :
    SameButInputs s t := by
  obtain ⟨o, c0, c1, c2, rds, ho, rfl⟩ := h
  obtain ⟨o', c0', c1', c2', rds', ho', rfl⟩ := h'
  refine ⟨o', c0', c1', c2', rds', ?_, rfl⟩
  obtain rfl | rfl := ho'
  · exact ho
  · exact .inr rfl

theorem phase {s u : State} (h : SameButInputs s u) : u.phase = s.phase := by
  obtain ⟨o, c0, c1, c2, rds, -, rfl⟩ := h
  rfl

/-- A result register reads the same (R71). -/
theorem regRead_resultRegisters {s u : State} (h : SameButInputs s u) {reg : RegIdx × Word16}
    (hreg : reg ∈ resultRegisters s) : u.regRead reg.1 = reg.2 := by
  obtain ⟨o, c0, c1, c2, rds, -, rfl⟩ := h
  simp only [resultRegisters, List.mem_cons, List.not_mem_nil, or_false] at hreg
  rcases hreg with rfl | rfl | rfl | rfl | rfl | rfl | rfl <;> rfl

/-- STATUS reads the same but for OVR, which can only have been set (R65). -/
theorem regRead_status {s u : State} (h : SameButInputs s u) :
    u.regRead 0x1#4 = s.statusWord ∨ u.regRead 0x1#4 = s.statusWord ||| 0x0004#16 := by
  obtain ⟨o, c0, c1, c2, rds, rfl | rfl, rfl⟩ := h
  · exact .inl rfl
  · exact .inr (statusWord_setOvr s)

end SameButInputs

theorem access_sameButInputs {s : State} {p : Pending} (hp : s.phase = .busy p) (a : Access) :
    SameButInputs s (s.access a) := by
  cases a with
  | read idx => exact ⟨_, _, _, _, _, .inl rfl, rfl⟩
  | write idx v =>
    obtain ⟨-, hw⟩ | ⟨-, c0, c1, c2, hw⟩ := regWrite_of_busy hp idx v <;> rw [State.access, hw]
    · exact ⟨_, _, _, _, _, .inr rfl, rfl⟩
    · exact ⟨_, _, _, _, _, .inl rfl, rfl⟩

theorem accesses_sameButInputs {s : State} {p : Pending} (hp : s.phase = .busy p)
    (accs : List Access) : SameButInputs s (accs.foldl State.access s) := by
  induction accs generalizing s with
  | nil => exact .refl s
  | cons a accs ih =>
    have ha := access_sameButInputs hp a
    exact ha.trans (ih (ha.phase.trans hp))

/-- While a command is pending OVR is set by a write to CMD and by no other access (R46). -/
theorem accesses_ovr {s : State} {p : Pending} (hp : s.phase = .busy p) (accs : List Access) :
    (accs.foldl State.access s).ovr = true ↔
      s.ovr = true ∨ ∃ v, Access.write 0x0#4 v ∈ accs := by
  induction accs generalizing s with
  | nil => simp
  | cons a accs ih =>
    have hbusy := (access_sameButInputs hp a).phase.trans hp
    rw [List.foldl_cons, ih hbusy, (access_phase_ovr s a).2]
    simp [hp, or_assoc, exists_or, @eq_comm _ a]

/-- An access hands the host the register it reads, if it is a read (R44). -/
theorem access_reads {s : State} {p : Pending} (hp : s.phase = .busy p) (a : Access) :
    ∃ given : List ReadReturn, (s.access a).reads = given ++ s.reads ∧
      given.reverse.map ReadReturn.idx = readIndices [a] ∧
      ∀ r ∈ given, r.value = s.regRead r.idx := by
  cases a with
  | read idx => exact ⟨[⟨idx, s.regRead idx⟩], rfl, rfl, by simp⟩
  | write idx v =>
    refine ⟨[], ?_, rfl, by simp⟩
    obtain ⟨-, hw⟩ | ⟨-, c0, c1, c2, hw⟩ := regWrite_of_busy hp idx v <;> rw [State.access, hw] <;>
      rfl

/-- Each read among accesses to a block with a command pending is answered, in order, with a register
of a state that the accesses before it have left (R44, R65). -/
theorem accesses_reads {s : State} {p : Pending} (hp : s.phase = .busy p) (accs : List Access) :
    ∃ given : List ReadReturn, (accs.foldl State.access s).reads = given ++ s.reads ∧
      given.reverse.map ReadReturn.idx = readIndices accs ∧
      ∀ r ∈ given, ∃ u, SameButInputs s u ∧ r.value = u.regRead r.idx := by
  induction accs generalizing s with
  | nil => exact ⟨[], rfl, rfl, by simp⟩
  | cons a accs ih =>
    have ha := access_sameButInputs hp a
    obtain ⟨first, hfirst, hidx, hvalue⟩ := access_reads hp a
    obtain ⟨later, hlater, hidx', hvalue'⟩ := ih (ha.phase.trans hp)
    refine ⟨later ++ first, ?_, ?_, fun r hr => ?_⟩
    · rw [List.foldl_cons, hlater, hfirst, List.append_assoc]
    · rw [List.reverse_append, List.map_append, hidx, hidx']
      exact (List.filterMap_append (l := [a])).symm
    · obtain hr | hr := List.mem_append.mp hr
      · obtain ⟨u, hu, hread⟩ := hvalue' r hr
        exact ⟨u, ha.trans hu, hread⟩
      · exact ⟨s, .refl s, hvalue r hr⟩

/-- Settles O51: the accesses in order, each of which leaves all but OVR and CW_IN. -/
theorem pendingCommandUndisturbed : Obligations.PendingCommandUndisturbed := by
  intro accs rest s p hp hs
  have hp' : { s with schedule := rest }.phase = .busy p := hp
  have hsame := accesses_sameButInputs hp' accs
  have hovr := accesses_ovr hp' accs
  obtain ⟨given, hreads, hidx, hvalue⟩ := accesses_reads hp' accs
  refine ⟨_, after_accesses hs, ?_⟩
  generalize accs.foldl State.access { s with schedule := rest } = t at hsame hovr hreads ⊢
  obtain ⟨o, c0, c1, c2, rds, -, rfl⟩ := hsame
  refine ⟨rfl, hp, rfl, rfl, rfl, rfl, rfl, rfl, rfl, rfl, rfl, rfl, rfl, rfl, rfl, hovr, given,
    hreads, hidx, fun r hr => ?_⟩
  obtain ⟨u, hu, hread⟩ := hvalue r hr
  refine ⟨fun reg hreg hi => ?_, fun hi => ?_⟩
  · rw [hread, hi]
    exact hu.regRead_resultRegisters hreg
  · rw [hread, hi]
    exact ⟨(statusWord_busy u).mpr ⟨p, hu.phase.trans hp⟩, hu.regRead_status⟩

/-! ### Polling (R70) -/

/-- Events with neither a reset nor an engine turn among them are host accesses. -/
theorem exists_accesses_of_noReset {evs : List Event} (hreset : NoReset evs)
    (hengine : .engine ∉ evs) : ∃ accs : List Access, accs.map .host = evs := by
  have hmem : evs ∈ Set.range (List.map Event.host) := by
    rw [Set.range_list_map]
    intro e he
    cases e with
    | host a => exact ⟨a, rfl⟩
    | engine => exact absurd he hengine
    | reset a => exact absurd rfl (hreset _ he a)
  exact hmem

/-- A command stays pending until a reset or the engine's turn (R26). -/
theorem busy_after_of_noReset {evs rest : List Event} {s : State} {p : Pending}
    (hp : s.phase = .busy p) (hs : s.schedule = evs ++ rest) (hreset : NoReset evs)
    (hengine : .engine ∉ evs) : ∃ u, After evs.length s u ∧ u.phase = .busy p := by
  obtain ⟨accs, rfl⟩ := exists_accesses_of_noReset hreset hengine
  have hsame := accesses_sameButInputs (s := { s with schedule := rest }) hp accs
  exact ⟨_, by simpa using after_accesses hs, hsame.phase.trans hp⟩

/-- Settles O54: without an engine turn the command would still be pending, and up to the first one
it is. -/
theorem pollingFindsTheCommit : Obligations.PollingFindsTheCommit := by
  intro evs rest s t p hp hs hreset hrun hpoll
  have hengine : .engine ∈ evs := by
    by_contra hno
    obtain ⟨u, hu, hbusy⟩ := busy_after_of_noReset hp hs hreset hno
    cases Host.Outcome.next.inj (hrun.symm.trans hu)
    rw [(statusWord_busy t).mpr ⟨p, hbusy⟩] at hpoll
    cases hpoll
  obtain ⟨pre, post, rfl, hfirst⟩ := List.eq_append_cons_of_mem hengine
  rw [List.append_assoc] at hs
  have hpre : NoReset pre := fun e he => hreset e (List.mem_append_left _ he)
  obtain ⟨u, hu, hbusy⟩ := busy_after_of_noReset hp hs hpre hfirst
  exact ⟨pre, post, u, rfl, hfirst, hu, hbusy⟩

/-! ### Writes to CW_IN and the commit (R74, R237) -/

/-- A change of the state that leaves PHASE and commutes with both commits commutes with the engine's
turn, because the snapshot alone decides the commit (R41). -/
theorem engineTurn_map {f : State → State} (hphase : ∀ s, (f s).phase = s.phase)
    (hcommit : ∀ s p w, (f s).commit p w = f (s.commit p w))
    (hfault : ∀ s p c, (f s).commitFault p c = f (s.commitFault p c)) {s t : State}
    (h : engineTurn s = .next t) : engineTurn (f s) = .next (f t) := by
  cases hp : s.phase with
  | idle =>
    rw [engineTurn_of_idle hp] at h
    cases h
    exact engineTurn_of_idle ((hphase s).trans hp)
  | busy p =>
    obtain ⟨c, hturn⟩ | ⟨w, hturn⟩ := engineTurn_busy p
    · cases (hturn s hp).symm.trans h
      rw [hturn _ ((hphase s).trans hp), hfault]
    · cases (hturn s hp).symm.trans h
      rw [hturn _ ((hphase s).trans hp), hcommit]

theorem engineTurn_setSchedule {s t : State} (h : engineTurn s = .next t) (sch : List Event) :
    engineTurn { s with schedule := sch } = .next { t with schedule := sch } :=
  engineTurn_map (f := fun s => { s with schedule := sch }) (fun _ => rfl)
    (fun _ _ w => by cases w <;> rfl) (fun _ _ _ => rfl) h

/-- `step_of_engine`, with the turn taken in the state apart from its schedule. -/
theorem step_engine_cons {s t : State} (h : engineTurn s = .next t) (rest : List Event) :
    step { s with schedule := .engine :: rest } = .next { t with schedule := rest } :=
  (step_of_engine rfl).trans (engineTurn_setSchedule h rest)

/-- The engine's turn and a write to a CW_IN register commute (R74). -/
theorem engineTurn_regWrite_cwIn {s t : State} {idx : RegIdx} (hidx : idx ∈ [0x3#4, 0x4#4, 0x5#4])
    (v : Word16) (h : engineTurn s = .next t) :
    engineTurn (s.regWrite idx v) = .next (t.regWrite idx v) := by
  simp only [List.mem_cons, List.not_mem_nil, or_false] at hidx
  obtain rfl | rfl | rfl := hidx <;>
    exact engineTurn_map (f := (State.regWrite · _ v)) (fun _ => rfl)
      (fun _ _ w => by cases w <;> rfl) (fun _ _ _ => rfl) h

/-- Settles O52: both orders end in the write to what the commit leaves. -/
theorem inputWriteCommutesWithCommit : Obligations.InputWriteCommutesWithCommit := by
  intro s p idx v rest _ hidx
  obtain ⟨t, ht, -⟩ := engineTurn_next s
  have hwrite := engineTurn_regWrite_cwIn hidx v ht
  refine ⟨{ t.regWrite idx v with schedule := rest },
    after_succ (step_host_cons s ..) (after_succ (step_engine_cons hwrite rest) rfl),
    after_succ (step_engine_cons ht _) (after_succ (step_host_cons t ..) rfl), ?_⟩
  refine ⟨?_, ?_, ?_⟩ <;> rintro rfl
  · rfl
  · rfl
  · exact and_lowByte v

end Sys2Proof.Proofs

namespace Sys2Proof.Proofs

open Sys2Proof.Machine Sys2Proof.Spec Sys2Proof.Laws

/-! ### Decode and encode, field by field (R80, R82, R89) -/

/-- A 4-bit field holds the integer `n` exactly when `n` fits and the field is its encoding (R11). -/
theorem sym4_toNat_eq_iff {x : Sym4} {n : Nat} : x.toNat = n ↔ n ≤ 15 ∧ x = BitVec.ofNat 4 n := by
  constructor
  · rintro rfl
    exact ⟨Nat.le_of_lt_succ x.isLt, by simp⟩
  · rintro ⟨hn, rfl⟩
    exact Nat.mod_eq_of_lt (Nat.lt_succ_of_le hn)

/-- What the decoder answers on four fields: RSV is 0, OP is the command's, and the operand fields
hold its operands (R89). -/
theorem decodeCmd_eq_ok_iff {op rsv a b : Sym4} {i : Instr} :
    decodeCmd op rsv a b = .ok i ↔
      rsv = 0#4 ∧ op = i.opcode ∧ a.toNat = i.operandA ∧ b.toNat = i.operandB := by
  constructor
  · intro h
    refine ⟨?_, decodeCmd_opcode h, ?_⟩
    · by_contra hrsv
      simp [decodeCmd, hrsv] at h
    · unfold decodeCmd at h
      split at h
      · cases h
      · split at h <;> cases h <;> exact ⟨rfl, rfl⟩
  · rintro ⟨rfl, rfl, ha, hb⟩
    cases i <;> cases ha <;> cases hb <;> rfl

/-- Two register words are the same word when their four fields are. -/
theorem eq_pack4_iff {w : Word16} {n0 n1 n2 n3 : Sym4} :
    w = pack4 n0 n1 n2 n3 ↔
      nibble w 0 = n0 ∧ nibble w 1 = n1 ∧ nibble w 2 = n2 ∧ nibble w 3 = n3 := by
  constructor
  · rintro rfl
    simp
  · rintro ⟨rfl, rfl, rfl, rfl⟩
    exact (pack4_nibbles w).symm

/-- Settles O1: both sides say the same of each of the four fields. -/
theorem decodeAndEncodeAreInverse : Obligations.DecodeAndEncodeAreInverse := by
  intro w i
  rw [decode, decodeCmd_eq_ok_iff, encode, eq_pack4_iff, sym4_toNat_eq_iff, sym4_toNat_eq_iff,
    Instr.WellFormed]
  tauto

/-! ### Which words decode (R82, R83, R84) -/

/-- Each OP of the map has a command with every pair of operands. -/
theorem exists_instr_of_mem_opcodes {op : Sym4} (h : op ∈ opcodes) (a b : Nat) :
    ∃ i : Instr, i.opcode = op ∧ i.operandA = a ∧ i.operandB = b := by
  simp only [opcodes, List.mem_cons, List.not_mem_nil, or_false] at h
  obtain rfl | rfl | rfl | rfl | rfl | rfl | rfl | rfl := h
  · exact ⟨.add a b, rfl, rfl, rfl⟩
  · exact ⟨.sub a b, rfl, rfl, rfl⟩
  · exact ⟨.mul a b, rfl, rfl, rfl⟩
  · exact ⟨.inv a b, rfl, rfl, rfl⟩
  · exact ⟨.div a b, rfl, rfl, rfl⟩
  · exact ⟨.sqrt a b, rfl, rfl, rfl⟩
  · exact ⟨.synd a b, rfl, rfl, rfl⟩
  · exact ⟨.decode a b, rfl, rfl, rfl⟩

/-- A word decodes to a command of OP `op` exactly when its RSV is 0 and its OP is `op`. -/
theorem exists_decode_opcode_iff {w : Word16} {op : Sym4} (h : op ∈ opcodes) :
    (∃ i, decode w = .ok i ∧ i.opcode = op) ↔ nibble w 2 = 0#4 ∧ nibble w 3 = op := by
  simp only [decode, decodeCmd_eq_ok_iff]
  constructor
  · rintro ⟨i, ⟨hrsv, hop, -, -⟩, rfl⟩
    exact ⟨hrsv, hop⟩
  · rintro ⟨hrsv, hop⟩
    obtain ⟨i, rfl, ha, hb⟩ := exists_instr_of_mem_opcodes h (nibble w 1).toNat (nibble w 0).toNat
    exact ⟨i, ⟨hrsv, hop, ha.symm, hb.symm⟩, rfl⟩

/-- Settles O2: the OP of the command is the word's, and each OP of the map has a command. -/
theorem exactlyTheMappedWordsDecode : Obligations.ExactlyTheMappedWordsDecode := by
  intro w
  change _ ↔ nibble w 2 = 0#4 ∧ nibble w 3 ∈ opcodes
  constructor
  · rintro ⟨i, hi⟩
    have hmem := opcode_mem_opcodes i
    obtain ⟨hrsv, hop⟩ := (exists_decode_opcode_iff hmem).mp ⟨i, hi, rfl⟩
    exact ⟨hrsv, hop ▸ hmem⟩
  · rintro ⟨hrsv, hmem⟩
    obtain ⟨i, hi, -⟩ := (exists_decode_opcode_iff hmem).mpr ⟨hrsv, rfl⟩
    exact ⟨i, hi⟩

/-! ### The opcode table's rows (R82) -/

/-- The row of the opcode table that a command belongs to. -/
def tableRow (i : Instr) : OpcodeRow := ⟨i.mnemonic, pack4 0#4 0#4 0#4 i.opcode, 0xFF00#16⟩

/-- Every row of the opcode table is a command's. -/
theorem exists_tableRow_of_mem {r : OpcodeRow} (h : r ∈ opcodeTable) : ∃ i, r = tableRow i := by
  simp only [opcodeTable, List.mem_cons, List.not_mem_nil, or_false] at h
  obtain rfl | rfl | rfl | rfl | rfl | rfl | rfl | rfl := h
  · exact ⟨.add 0 0, rfl⟩
  · exact ⟨.sub 0 0, rfl⟩
  · exact ⟨.mul 0 0, rfl⟩
  · exact ⟨.inv 0 0, rfl⟩
  · exact ⟨.div 0 0, rfl⟩
  · exact ⟨.sqrt 0 0, rfl⟩
  · exact ⟨.synd 0 0, rfl⟩
  · exact ⟨.decode 0 0, rfl⟩

/-- The mnemonic and the OP name the same row of the map. -/
theorem mnemonic_eq_iff_opcode_eq (i j : Instr) : i.mnemonic = j.mnemonic ↔ i.opcode = j.opcode := by
  cases i <;> cases j <;> simp [Instr.mnemonic, Instr.opcode]

/-- The bitwise and of two register words is taken field by field. -/
theorem pack4_and_pack4 (m0 m1 m2 m3 n0 n1 n2 n3 : Sym4) :
    pack4 m0 m1 m2 m3 &&& pack4 n0 n1 n2 n3 =
      pack4 (m0 &&& n0) (m1 &&& n1) (m2 &&& n2) (m3 &&& n3) := by
  rw [pack4, pack4, pack4, BitVec.and_append, BitVec.and_append, BitVec.and_append]

/-- The mask 0xFF00 of the table keeps OP and RSV and clears the operand fields. -/
theorem and_highByte (w : Word16) :
    w &&& 0xFF00#16 = pack4 0#4 0#4 (nibble w 2) (nibble w 3) := by
  have hmask : 0xFF00#16 = pack4 0#4 0#4 (.allOnes 4) (.allOnes 4) := rfl
  conv_lhs => rw [← pack4_nibbles w, hmask, pack4_and_pack4]
  simp only [BitVec.and_allOnes, BitVec.and_zero]

/-- A word matches a command's row exactly when its RSV is 0 and its OP is the command's. -/
theorem matches_tableRow_iff {w : Word16} {i : Instr} :
    w &&& (tableRow i).mask = (tableRow i).value ↔ nibble w 2 = 0#4 ∧ nibble w 3 = i.opcode := by
  simp [tableRow, and_highByte, eq_pack4_iff]

/-- All rows have one mask, and each its own match. -/
theorem opcodeTable_pairwise_value_ne :
    opcodeTable.Pairwise fun r q => r.mask = q.mask ∧ r.value ≠ q.value := by decide

/-- Settles O3: a row's match under its mask is RSV = 0 and the OP of the row's command. -/
theorem tableRowsSayWhatDecodes : Obligations.TableRowsSayWhatDecodes := by
  constructor
  · intro r hr w
    obtain ⟨j, rfl⟩ := exists_tableRow_of_mem hr
    rw [matches_tableRow_iff, ← exists_decode_opcode_iff (opcode_mem_opcodes j)]
    simp only [tableRow, mnemonic_eq_iff_opcode_eq]
  · refine opcodeTable_pairwise_value_ne.imp ?_
    rintro r q ⟨hmask, hvalue⟩ w ⟨hr, hq⟩
    exact hvalue (hr.symm.trans (hmask ▸ hq))

/-- Settles O4: eight fixed words, evaluated. -/
theorem writtenOutWordsDecode : Obligations.WrittenOutWordsDecode := by
  unfold Obligations.WrittenOutWordsDecode
  decide

/-! ### The assembler (R87) -/

/-- The word of a well-formed command as an integer (R80). -/
theorem encode_eq_ofNat {i : Instr} (h : i.WellFormed) :
    encode i = BitVec.ofNat 16 (4096 * i.opcode.toNat + 16 * i.operandA + i.operandB) := by
  obtain ⟨ha, hb⟩ := h
  apply BitVec.eq_of_toNat_eq
  rw [encode, pack4_toNat]
  simp only [BitVec.toNat_ofNat]
  omega

/-- A line that spells a command assembles to its word, or is an error when the command is not well
formed. -/
theorem assemble_eq_of_instr {line : AsmLine} {i : Instr} (hi : line.instr? = some i) :
    assemble line = if i.WellFormed then some (encode i) else none := by
  cases line <;> cases hi <;> rfl

theorem assemble_of_wellFormed {line : AsmLine} (i : Instr) (hi : line.instr? = some i)
    (h : i.WellFormed) :
    assemble line =
      some (BitVec.ofNat 16 (4096 * i.opcode.toNat + 16 * i.operandA + i.operandB)) := by
  rw [assemble_eq_of_instr hi, if_pos h, encode_eq_ofNat h]

theorem assemble_of_not_wellFormed {line : AsmLine} (i : Instr) (hi : line.instr? = some i)
    (h : ¬ i.WellFormed) : assemble line = none := by
  rw [assemble_eq_of_instr hi, if_neg h]

/-- Settles O5: a line is well formed exactly when its written operands are at most 15. -/
theorem assemblerWords : Obligations.AssemblerWords := by
  intro a b
  refine ⟨fun ha hb => ?_, fun ha => ?_, rfl, rfl, fun _ => rfl, fun hab => ?_, fun ha => ?_⟩
  · exact ⟨assemble_of_wellFormed (.add a b) rfl ⟨ha, hb⟩,
      assemble_of_wellFormed (.sub a b) rfl ⟨ha, hb⟩,
      assemble_of_wellFormed (.mul a b) rfl ⟨ha, hb⟩,
      assemble_of_wellFormed (.div a b) rfl ⟨ha, hb⟩⟩
  · exact ⟨assemble_of_wellFormed (.inv a 0) rfl ⟨ha, Nat.zero_le _⟩,
      assemble_of_wellFormed (.sqrt a 0) rfl ⟨ha, Nat.zero_le _⟩⟩
  · have hwf : ¬ (a ≤ 15 ∧ b ≤ 15) := by omega
    exact ⟨assemble_of_not_wellFormed (.add a b) rfl hwf,
      assemble_of_not_wellFormed (.sub a b) rfl hwf,
      assemble_of_not_wellFormed (.mul a b) rfl hwf,
      assemble_of_not_wellFormed (.div a b) rfl hwf⟩
  · have hwf : ¬ (a ≤ 15 ∧ 0 ≤ 15) := by omega
    exact ⟨assemble_of_not_wellFormed (.inv a 0) rfl hwf,
      assemble_of_not_wellFormed (.sqrt a 0) rfl hwf⟩

end Sys2Proof.Proofs

namespace Sys2Proof.Proofs

open Sys2Proof.Machine Sys2Proof.Spec Sys2Proof.Laws

/-! ### Integers in 0..10 as field elements (R11) -/

/-- Every field element is the element of an integer in range. -/
theorem exists_element (x : GF11) : ∃ v, v ≤ 10 ∧ element v = x := by
  have hx : x.val ≤ 10 := Nat.le_of_lt_succ x.isLt
  exact ⟨x.val, hx, Fin.ext (element_val hx)⟩

theorem element_inj {v w : Nat} (hv : v ≤ 10) (hw : w ≤ 10) : element v = element w ↔ v = w := by
  rw [Fin.ext_iff, element_val hv, element_val hw]

theorem element_ne_zero {v : Nat} (h1 : 1 ≤ v) (hv : v ≤ 10) : element v ≠ 0 := by
  rw [← Fin.val_ne_zero_iff, element_val hv]
  exact Nat.ne_of_gt h1

/-! ### The field functions on integer operands (R112 to R117) -/

theorem gf_add_element_val {a b : Nat} (ha : a ≤ 10) (hb : b ≤ 10) :
    (Gf.add (element a) (element b)).val = (a + b) % 11 := by
  rw [gf_add_eq, Fin.val_add, element_val ha, element_val hb]

theorem gf_sub_element_val {a b : Nat} (ha : a ≤ 10) (hb : b ≤ 10) :
    (Gf.sub (element a) (element b)).val = residue ((a : Int) - b) := by
  rw [residue, Gf.sub, Gf.mod11, element_val ha, element_val hb]

theorem gf_mul_element_val {a b : Nat} (ha : a ≤ 10) (hb : b ≤ 10) :
    (Gf.mul (element a) (element b)).val = a * b % 11 := by
  rw [gf_mul_eq, Fin.val_mul, element_val ha, element_val hb]

/-- `inv` on integers is the inverse modulo 11 (R115). -/
theorem gf_inv_element_iff {a v : Nat} (ha : a ≤ 10) (hv : v ≤ 10) :
    Gf.inv (element a) = .ok (element v) ↔ a * v % 11 = 1 := by
  rw [gf_inv_ok_iff, Fin.ext_iff, Fin.val_mul, element_val ha, element_val hv, Fin.val_one]

theorem exists_gf_inv_ok {a : GF11} (ha : a ≠ 0) : ∃ v, Gf.inv a = .ok v ∧ a * v = 1 := by
  have hinv := (gf_inv_table a).trans (if_neg ha)
  exact ⟨_, hinv, (gf_inv_ok_iff a _).mp hinv⟩

/-- An integer in 1..10 has its inverse in 1..10 (R115). -/
theorem exists_gf_inv_element {a : Nat} (h1 : 1 ≤ a) (ha : a ≤ 10) :
    ∃ v, 1 ≤ v ∧ v ≤ 10 ∧ a * v % 11 = 1 ∧ Gf.inv (element a) = .ok (element v) := by
  obtain ⟨x, hinv, -⟩ := exists_gf_inv_ok (element_ne_zero h1 ha)
  obtain ⟨v, hv, rfl⟩ := exists_element x
  have hmul := (gf_inv_element_iff ha hv).mp hinv
  have hpos : v ≠ 0 := by
    rintro rfl
    simp at hmul
  exact ⟨v, Nat.pos_of_ne_zero hpos, hv, hmul, hinv⟩

/-- Division multiplies by the inverse of the divisor (R116). -/
theorem gf_div_of_inv {b v : GF11} (a : GF11) (h : Gf.inv b = .ok v) :
    Gf.div a b = .ok (Gf.mul a v) := by
  rw [Gf.div, h]

theorem gf_div_mul_cancel (a : GF11) {b : GF11} (hb : b ≠ 0) : Gf.div (a * b) b = .ok a := by
  obtain ⟨v, hinv, hmul⟩ := exists_gf_inv_ok hb
  rw [gf_div_of_inv _ hinv, gf_mul_eq, mul_assoc, hmul, mul_one]

/-- `sqrt(a)` is the one root of `a` in 0..5 (R117): the other, if any, is its negation. -/
theorem gf_sqrt_ok_iff (a r : GF11) : Gf.sqrt a = .ok r ↔ r * r = a ∧ r ≤ 5 := by
  revert a r
  decide

/-- `sqrt` on integers is the root modulo 11 in 0..5 (R117). -/
theorem gf_sqrt_element_iff {a r : Nat} (ha : a ≤ 10) (hr : r ≤ 10) :
    Gf.sqrt (element a) = .ok (element r) ↔ r * r % 11 = a ∧ r ≤ 5 := by
  rw [gf_sqrt_ok_iff, Fin.ext_iff, Fin.val_mul, Fin.le_def, element_val ha, element_val hr]
  rfl

/-- The two lists of R117 are disjoint. -/
theorem not_nonResidue_of_residue {a : GF11} (h : a ∈ ([0, 1, 3, 4, 5, 9] : List GF11)) :
    a ∉ ([2, 6, 7, 8, 10] : List GF11) := by
  revert a
  decide

theorem exists_gf_sqrt_ok {a : GF11} (h : a ∈ ([0, 1, 3, 4, 5, 9] : List GF11)) :
    ∃ r, Gf.sqrt a = .ok r := by
  cases hr : Gf.sqrt a with
  | ok r => exact ⟨r, rfl⟩
  | error c =>
    obtain ⟨hnon, -⟩ := (gf_sqrt_error_iff a c).mp hr
    exact absurd hnon (not_nonResidue_of_residue h)

/-- The root of R117 is the smallest of all roots: one below it would be a second root in 0..5. -/
theorem gf_sqrt_element_le {a r q : Nat} (ha : a ≤ 10) (hr : r ≤ 10)
    (hsqrt : Gf.sqrt (element a) = .ok (element r)) (hq : q ≤ 10) (hqa : q * q % 11 = a) :
    r ≤ q := by
  obtain ⟨-, h5⟩ := (gf_sqrt_element_iff ha hr).mp hsqrt
  by_contra hlt
  have hsqrtq := (gf_sqrt_element_iff ha hq).mpr ⟨hqa, by omega⟩
  exact hlt ((element_inj hr hq).mp (Except.ok.inj (hsqrt.symm.trans hsqrtq))).le

/-- Every square has a designated root: whichever of x and −x is in 0..5 (R117). -/
theorem exists_gf_sqrt_mul_self (x : GF11) : ∃ r, Gf.sqrt (x * x) = .ok r := by
  obtain hx | hx : x ≤ 5 ∨ -x ≤ 5 := by
    revert x
    decide
  · exact ⟨x, (gf_sqrt_ok_iff _ _).mpr ⟨rfl, hx⟩⟩
  · exact ⟨-x, (gf_sqrt_ok_iff _ _).mpr ⟨neg_mul_neg x x, hx⟩⟩

theorem mul_self_ne_of_nonResidue {a : GF11} (h : a ∈ ([2, 6, 7, 8, 10] : List GF11)) (x : GF11) :
    x * x ≠ a := by
  rintro rfl
  obtain ⟨r, hr⟩ := exists_gf_sqrt_mul_self x
  cases hr.symm.trans ((gf_sqrt_error_iff _ .nonResidue).mpr ⟨h, rfl⟩)

/-- Settles O12: `add`, `sub` and `mul` are the library's ring operations on `Fin 11`, `inv` and
`sqrt` answer what multiplies to 1 and to the argument. -/
theorem fieldLaws : Obligations.FieldLaws := by
  simp only [Obligations.FieldLaws, gf_add_eq, gf_sub_eq, gf_mul_eq]
  refine ⟨fun a b => ⟨add_comm a b, mul_comm a b⟩,
    fun a b c => ⟨add_assoc a b c, mul_assoc a b c, mul_add a b c⟩, add_sub_cancel_right,
    fun a b => gf_div_mul_cancel a, fun a => exists_gf_inv_ok, fun a ha => ?_,
    fun a => mul_self_ne_of_nonResidue⟩
  obtain ⟨r, hr⟩ := exists_gf_sqrt_ok ha
  exact ⟨r, hr, ((gf_sqrt_ok_iff a r).mp hr).1⟩

/-! ### What a field command computes from its operands (R111) -/

theorem binaryField_of_ok {F : GF11 → GF11 → Except CmdFault GF11} {a b : Nat} {y : GF11}
    (ha : a ≤ 10) (hb : b ≤ 10) (hF : F (element a) (element b) = .ok y) :
    binaryField F a b = .ok (.result y) := by
  simp only [binaryField, fieldOperand_of_le ha, fieldOperand_of_le hb, hF]

theorem binaryField_of_error {F : GF11 → GF11 → Except CmdFault GF11} {a b : Nat} {c : CmdFault}
    (ha : a ≤ 10) (hb : b ≤ 10) (hF : F (element a) (element b) = .error c) :
    binaryField F a b = .error c := by
  simp only [binaryField, fieldOperand_of_le ha, fieldOperand_of_le hb, hF]

/-- RANGE comes before every fault of the function itself (R111, R207). -/
theorem binaryField_of_gt (F : GF11 → GF11 → Except CmdFault GF11) {a b : Nat}
    (h : 10 < a ∨ 10 < b) : binaryField F a b = .error .range := by
  obtain ha | ha := Nat.lt_or_ge 10 a
  · simp only [binaryField, fieldOperand_of_gt ha]
  · simp only [binaryField, fieldOperand_of_le ha,
      fieldOperand_of_gt (h.resolve_left (Nat.not_lt.mpr ha))]

theorem unaryField_of_ok {F : GF11 → Except CmdFault GF11} {a : Nat} {y : GF11} (ha : a ≤ 10)
    (hF : F (element a) = .ok y) : unaryField F a = .ok (.result y) := by
  simp only [unaryField, fieldOperand_of_le ha, hF]

theorem unaryField_of_error {F : GF11 → Except CmdFault GF11} {a : Nat} {c : CmdFault}
    (ha : a ≤ 10) (hF : F (element a) = .error c) : unaryField F a = .error c := by
  simp only [unaryField, fieldOperand_of_le ha, hF]

theorem unaryField_of_gt (F : GF11 → Except CmdFault GF11) {a : Nat} (h : 10 < a) :
    unaryField F a = .error .range := by
  simp only [unaryField, fieldOperand_of_gt h]

/-! ### The commit of a field command as a whole state (R208, R209) -/

/-- RESULT holds the integer value of the field element (R33, R111). -/
theorem packElements_result (y : GF11) : packElements y 0 0 0 = BitVec.ofNat 16 y.val := by
  revert y
  decide

theorem commit_result_eq (s : State) (p : Pending) (y : GF11) :
    s.commit p (.result y) = fieldCommitted s p.op y.val := by
  rw [fieldCommitted, ← packElements_result]
  rfl

theorem exec_of_result {i : Instr} {s : State} {p : Pending} {y : GF11} {v : Nat}
    (hp : s.phase = .busy p) (h : computeOf i p = .ok (.result y)) (hy : y.val = v) :
    exec i s = .next (fieldCommitted s p.op v) := by
  rw [exec_eq_runCommand, runCommand_ok hp h, commit_result_eq, hy]

theorem exec_of_error {i : Instr} {s : State} {p : Pending} {c : CmdFault} (hp : s.phase = .busy p)
    (h : computeOf i p = .error c) : exec i s = .next (faultCommitted s p.op c) := by
  rw [exec_eq_runCommand, runCommand_error hp h]
  rfl

/-! ### The six field commands (R112 to R117) -/

/-- A two-operand command whose function never faults: its value for operands in range, RANGE for
any other (R111). -/
theorem exec_of_total_binaryField {F : GF11 → GF11 → GF11} {i : Instr} {a b y : Nat} {s : State}
    {p : Pending} (hp : s.phase = .busy p)
    (hi : computeOf i p = binaryField (fun x y => .ok (F x y)) a b)
    (hF : a ≤ 10 → b ≤ 10 → (F (element a) (element b)).val = y) :
    (a ≤ 10 → b ≤ 10 → exec i s = .next (fieldCommitted s p.op y)) ∧
      (10 < a ∨ 10 < b → exec i s = .next (faultCommitted s p.op .range)) := by
  constructor
  · intro ha hb
    exact exec_of_result hp (hi.trans (binaryField_of_ok ha hb rfl)) (hF ha hb)
  · intro h
    exact exec_of_error hp (hi.trans (binaryField_of_gt _ h))

/-- Settles O6: the sum of the two elements is the residue of the integer sum. -/
theorem addCommand : Obligations.AddCommand :=
  fun _ _ ha hb => ⟨encode_eq_ofNat ⟨ha, hb⟩, fun _ _ hp hop =>
    hop ▸ exec_of_total_binaryField hp rfl gf_add_element_val⟩

/-- Settles O7: the difference of the two elements is the residue of the integer difference. -/
theorem subCommand : Obligations.SubCommand :=
  fun _ _ ha hb => ⟨encode_eq_ofNat ⟨ha, hb⟩, fun _ _ hp hop =>
    hop ▸ exec_of_total_binaryField hp rfl gf_sub_element_val⟩

/-- Settles O8: the product of the two elements is the residue of the integer product. -/
theorem mulCommand : Obligations.MulCommand :=
  fun _ _ ha hb => ⟨encode_eq_ofNat ⟨ha, hb⟩, fun _ _ hp hop =>
    hop ▸ exec_of_total_binaryField hp rfl gf_mul_element_val⟩

/-- Settles O9: a second inverse would be a second answer of `inv`. -/
theorem invCommand : Obligations.InvCommand := by
  refine fun a b ha hb => ⟨encode_eq_ofNat ⟨ha, hb⟩, fun s p hp hop => ?_⟩
  rw [← hop]
  refine ⟨fun h1 ha => ?_, ?_, fun h => exec_of_error hp (unaryField_of_gt Gf.inv h)⟩
  · obtain ⟨v, hv1, hv, hmul, hinv⟩ := exists_gf_inv_element h1 ha
    refine ⟨v, hv1, hv, hmul, fun u _ hu hmulu => ?_, ?_⟩
    · have hinvu := (gf_inv_element_iff ha hu).mpr hmulu
      exact (element_inj hu hv).mp (Except.ok.inj (hinvu.symm.trans hinv))
    · exact exec_of_result hp (unaryField_of_ok ha hinv) (element_val hv)
  · rintro rfl
    have hfault : Gf.inv (element 0) = .error .divByZero := (gf_inv_error_iff _ _).mpr ⟨rfl, rfl⟩
    exact exec_of_error hp (unaryField_of_error (Nat.zero_le _) hfault)

/-- Settles O10: the quotient is the product with the divisor's inverse. -/
theorem divCommand : Obligations.DivCommand := by
  refine fun a b ha hb => ⟨encode_eq_ofNat ⟨ha, hb⟩, fun s p hp hop => ?_⟩
  rw [← hop]
  refine ⟨fun ha h1 hb => ?_, ?_, fun h => exec_of_error hp (binaryField_of_gt Gf.div h)⟩
  · obtain ⟨v, hv1, hv, hmul, hinv⟩ := exists_gf_inv_element h1 hb
    have hdiv := gf_div_of_inv (element a) hinv
    exact ⟨v, hv1, hv, hmul,
      exec_of_result hp (binaryField_of_ok ha hb hdiv) (gf_mul_element_val ha hv)⟩
  · rintro ha rfl
    have hfault : Gf.div (element a) (element 0) = .error .divByZero :=
      (gf_div_error_iff _ _ _).mpr ⟨rfl, rfl⟩
    exact exec_of_error hp (binaryField_of_error ha (Nat.zero_le _) hfault)

/-- Settles O11: the root of a residue in 0..5 is the smallest one. -/
theorem sqrtCommand : Obligations.SqrtCommand := by
  refine fun a b ha hb => ⟨encode_eq_ofNat ⟨ha, hb⟩, fun s p hp hop => ?_⟩
  rw [← hop]
  refine ⟨fun h => ?_, fun h => ?_, fun h => exec_of_error hp (unaryField_of_gt Gf.sqrt h)⟩
  · have ha : a ≤ 10 := (by decide : ∀ a ∈ [0, 1, 3, 4, 5, 9], a ≤ 10) a h
    obtain ⟨x, hsqrt⟩ := exists_gf_sqrt_ok (List.mem_map_of_mem (f := element) h)
    obtain ⟨r, hr, rfl⟩ := exists_element x
    obtain ⟨hsq, h5⟩ := (gf_sqrt_element_iff ha hr).mp hsqrt
    exact ⟨r, h5, hsq, fun q => gf_sqrt_element_le ha hr hsqrt,
      exec_of_result hp (unaryField_of_ok ha hsqrt) (element_val hr)⟩
  · have ha : a ≤ 10 := (by decide : ∀ a ∈ [2, 6, 7, 8, 10], a ≤ 10) a h
    have hfault : Gf.sqrt (element a) = .error .nonResidue :=
      (gf_sqrt_error_iff _ _).mpr ⟨List.mem_map_of_mem (f := element) h, rfl⟩
    exact exec_of_error hp (unaryField_of_error ha hfault)

end Sys2Proof.Proofs

namespace Sys2Proof.Proofs

open Sys2Proof.Machine Sys2Proof.Spec Sys2Proof.Laws
open scoped Fin.CommRing

/-! ### SYND (R142) -/

theorem exec_of_ok {i : Instr} {s : State} {p : Pending} {w : Writes} (hp : s.phase = .busy p)
    (h : computeOf i p = .ok w) : exec i s = .next (s.commit p w) := by
  rw [exec_eq_runCommand, runCommand_ok hp h]

/-- Four field elements in one register, as the integer the register holds (R63). -/
theorem packElements_eq_word (x0 x1 x2 x3 : GF11) :
    packElements x0 x1 x2 x3 = word x0.val x1.val x2.val x3.val := by
  apply BitVec.eq_of_toNat_eq
  rw [packElements, pack4_toNat]
  simp only [symbol_toNat, word, BitVec.toNat_ofNat]
  omega

/-- The weighted sum of a word in range is the integer sum over its symbols (R140). -/
theorem mod11_weightedSum_val {cw : SymbolWord} (h : InRange cw) (k : Nat) :
    (Gf.mod11 (weightedSum (Vector.ofFn fun i => element (cw[i]).toNat) k)).val =
      synOf cw (k + 1) := by
  have hval (i : Fin 10) :
      ((Vector.ofFn fun i : Fin 10 => element (cw[i]).toNat)[i]).val = (cw[i]).toNat := by
    simpa using element_val (h i)
  rw [mod11_natCast, weightedSum_eq_sum, synOf, Nat.add_sub_cancel]
  simp only [hval]

/-- SYN of a word in range (R36, R140). -/
theorem syndromesOf_word {cw : SymbolWord} (h : InRange cw) :
    (syndromesOf (Vector.ofFn fun i => element (cw[i]).toNat)).word = synWord cw := by
  simp only [Syndromes.word, syndromesOf, packElements_eq_word, mod11_weightedSum_val h, synWord]

/-- Settles O13: SYND commits the syndromes of the snapshot, or RANGE. -/
theorem syndCommand : Obligations.SyndCommand := by
  refine fun a b ha hb => ⟨encode_eq_ofNat ⟨ha, hb⟩, fun s p hp hop => ?_⟩
  rw [← hop]
  constructor
  · intro h
    rw [← syndromesOf_word h]
    exact exec_of_ok (i := .synd a b) hp (syndCommand_of_range h)
  · intro h
    obtain ⟨hfault, -⟩ := wordCommands_of_not_range h
    exact exec_of_error hp hfault

/-! ### The syndromes as power sums over the positions (R140) -/

/-- `Σ y_i · i^k` over the positions i = 1..10, in the field (R140). -/
def powerSum (y : Codeword) (k : Nat) : GF11 := ∑ i : Fin 10, y[i] * element (i.val + 1) ^ k

theorem element_eq_natCast (n : Nat) : element n = (n : GF11) := rfl

theorem mod11_weightedSum (y : Codeword) (k : Nat) :
    Gf.mod11 (weightedSum y k) = powerSum y k := by
  have hmod : Gf.mod11 (weightedSum y k) = (weightedSum y k : GF11) := Fin.ext (mod11_natCast _)
  rw [hmod, weightedSum_eq_sum, powerSum]
  simp only [element_eq_natCast, Nat.cast_sum, Nat.cast_mul, Nat.cast_pow, Fin.cast_val_eq_self]

theorem syndromesOf_eq_powerSums (y : Codeword) :
    syndromesOf y = ⟨powerSum y 0, powerSum y 1, powerSum y 2, powerSum y 3⟩ := by
  simp only [syndromesOf, mod11_weightedSum]

/-- The four syndromes as a vector. -/
def syndromeVector (S : Syndromes) : Fin 4 → GF11 := ![S.s1, S.s2, S.s3, S.s4]

theorem syndromeVector_injective : Function.Injective syndromeVector := by
  rintro ⟨s1, s2, s3, s4⟩ ⟨t1, t2, t3, t4⟩ h
  simpa [syndromeVector] using h

theorem syndromeVector_syndromesOf (y : Codeword) (k : Fin 4) :
    syndromeVector (syndromesOf y) k = powerSum y k := by
  rw [syndromesOf_eq_powerSums]
  fin_cases k <;> rfl

/-- The table of R141: row i holds the first four powers of position i + 1. -/
def syndromeTable : Matrix (Fin 10) (Fin 4) GF11 :=
  !![1, 1, 1, 1; 1, 2, 4, 8; 1, 3, 9, 5; 1, 4, 5, 9; 1, 5, 3, 4;
     1, 6, 3, 7; 1, 7, 5, 2; 1, 8, 9, 6; 1, 9, 4, 3; 1, 10, 1, 10]

theorem syndromeTable_eq_pow (i : Fin 10) (k : Fin 4) :
    syndromeTable i k = element (i.val + 1) ^ k.val := by
  fin_cases k <;> revert i <;> decide

/-- R141 as the spec says it, with the sums taken in the field: S = y · H for every word y. It is
what the statement of O14, refuted below, says in natural numbers without the reduction mod 11. -/
theorem syndromeVector_eq_vecMul (y : Codeword) :
    syndromeVector (syndromesOf y) = Matrix.vecMul (fun i : Fin 10 => y[i]) syndromeTable := by
  funext k
  rw [syndromeVector_syndromesOf, powerSum, Matrix.vecMul, dotProduct]
  simp only [syndromeTable_eq_pow]

/-- Refutes O14: Lean reads `2 * y[1]` and the sums around it in the formal statement as natural
numbers, so its last three equations compare a residue with an unreduced sum. The word with symbol 2
at position 10 has S2 = 9, and the sum is 20. The block is not at fault: `syndromeVector_eq_vecMul`
is the rule. -/
theorem not_syndromeMatrix : ¬ Obligations.SyndromeMatrix := by
  intro h
  obtain ⟨-, h2, -⟩ := h #v[0, 0, 0, 0, 0, 0, 0, 0, 0, 2]
  revert h2
  decide

/-! ### Linearity (R144) -/

theorem powerSum_add {y z w : Codeword} (h : ∀ i : Fin 10, w[i] = y[i] + z[i]) (k : Nat) :
    powerSum w k = powerSum y k + powerSum z k := by
  simp only [powerSum, h, add_mul, Finset.sum_add_distrib]

theorem powerSum_single {e : Codeword} {j : Fin 10} (h : ∀ i : Fin 10, i ≠ j → e[i] = 0)
    (k : Nat) : powerSum e k = e[j] * element ((j.val + 1) ^ k) := by
  rw [element_eq_natCast, Nat.cast_pow, ← element_eq_natCast]
  refine Finset.sum_eq_single j (fun i _ hi => ?_) (fun hj => absurd (Finset.mem_univ j) hj)
  rw [h i hi, zero_mul]

/-- Settles O15: each syndrome is linear in the word. -/
theorem syndromeLinearity : Obligations.SyndromeLinearity := by
  simp only [Obligations.SyndromeLinearity, syndromesOf_eq_powerSums, Syndromes.mk.injEq]
  refine ⟨fun y z w h => ?_, fun code e w hcode h => ?_, fun e j h => ?_⟩
  · exact ⟨powerSum_add h 0, powerSum_add h 1, powerSum_add h 2, powerSum_add h 3⟩
  · simp [powerSum_add h, hcode]
  · exact ⟨(powerSum_single h 0).trans (mul_one _), by simpa using powerSum_single h 1,
      powerSum_single h 2, powerSum_single h 3⟩

/-! ### The minimum distance (R143) -/

/-- The Vandermonde argument: coefficients on `n` different points whose first `n` power sums are
all 0 are all 0. -/
theorem eq_zero_of_powerSums_eq_zero {R ι : Type} [CommRing R] [IsDomain R] {D : Finset ι}
    {f v : ι → R} (hf : Function.Injective f)
    (h : ∀ k < D.card, ∑ i ∈ D, v i * f i ^ k = 0) {i : ι} (hi : i ∈ D) : v i = 0 := by
  have hv : (fun j => v (D.equivFin.symm j)) = 0 := by
    refine Matrix.eq_zero_of_forall_pow_sum_mul_pow_eq_zero (f := fun j => f (D.equivFin.symm j))
      (hf.comp (Subtype.val_injective.comp D.equivFin.symm.injective)) fun k => ?_
    rw [D.equivFin.symm.sum_comp (fun i : D => v i * f i ^ k.val),
      Finset.sum_coe_sort D (fun i => v i * f i ^ k.val), h k k.isLt]
  simpa using congrFun hv (D.equivFin ⟨i, hi⟩)

theorem isDomain_gf11 : IsDomain GF11 :=
  ZMod.instIsDomain 11 (hp := ⟨by norm_num⟩)

theorem position_injective : Function.Injective fun i : Fin 10 => element (i.val + 1) := by
  decide

/-- Two words with the same syndromes that differ in at most four places are the same word. -/
theorem eq_of_syndromesOf_eq {y z : Codeword} (D : Finset (Fin 10)) (hD : D.card ≤ 4)
    (hsyn : syndromesOf y = syndromesOf z) (hout : ∀ i ∉ D, y[i] = z[i]) : y = z := by
  have := isDomain_gf11
  have hzero : ∀ k < D.card, ∑ i ∈ D, (y[i] - z[i]) * element (i.val + 1) ^ k = 0 := by
    intro k hk
    have heq : powerSum y k = powerSum z k := by
      have hk4 : k < 4 := hk.trans_le hD
      rw [← syndromeVector_syndromesOf y ⟨k, hk4⟩, hsyn, syndromeVector_syndromesOf]
    calc ∑ i ∈ D, (y[i] - z[i]) * element (i.val + 1) ^ k
        = ∑ i : Fin 10, (y[i] - z[i]) * element (i.val + 1) ^ k :=
          Finset.sum_subset D.subset_univ fun i _ hi => by rw [hout i hi, sub_self, zero_mul]
      _ = powerSum y k - powerSum z k := by simp only [powerSum, sub_mul, Finset.sum_sub_distrib]
      _ = 0 := sub_eq_zero.mpr heq
  refine Vector.ext fun i hi => ?_
  by_cases hmem : (⟨i, hi⟩ : Fin 10) ∈ D
  · exact sub_eq_zero.mp (eq_zero_of_powerSums_eq_zero position_injective hzero hmem)
  · exact hout ⟨i, hi⟩ hmem

/-- The word with the symbols `x` at positions 1..4 and those of `u` at positions 5..10. -/
def withHead (x : Fin 4 → GF11) (u : Codeword) : Codeword :=
  Vector.ofFn fun i => if h : i.val < 4 then x ⟨i.val, h⟩ else u[i]

theorem withHead_head (x : Fin 4 → GF11) (u : Codeword) (j : Fin 4) :
    (withHead x u)[j.val] = x j := by
  simp [withHead]

theorem withHead_tail (x : Fin 4 → GF11) (u : Codeword) {i : Fin 10} (hi : 4 ≤ i.val) :
    (withHead x u)[i] = u[i] := by
  simp [withHead, Nat.not_lt.mpr hi]

/-- Words with the same syndromes and the same symbols at positions 5..10 are the same word. -/
theorem eq_of_syndromesOf_eq_of_tail_eq {y z : Codeword} (hsyn : syndromesOf y = syndromesOf z)
    (htail : ∀ i : Fin 10, 4 ≤ i.val → y[i] = z[i]) : y = z := by
  refine eq_of_syndromesOf_eq (Finset.Iio 4) (by decide) hsyn fun i hi => htail i ?_
  simpa [Fin.le_def] using hi

/-- Four symbols can give a word any syndromes (R145): the symbols are determined by the syndromes,
and there are as many choices of the one as of the other. -/
theorem exists_syndromesOf_withHead (u : Codeword) (T : Syndromes) :
    ∃ x, syndromesOf (withHead x u) = T := by
  have hinj : Function.Injective fun x => syndromeVector (syndromesOf (withHead x u)) := by
    intro x z h
    have heq : withHead x u = withHead z u :=
      eq_of_syndromesOf_eq_of_tail_eq (syndromeVector_injective h) fun i hi => by
        rw [withHead_tail x u hi, withHead_tail z u hi]
    funext j
    rw [← withHead_head x u, heq, withHead_head]
  obtain ⟨x, hx⟩ := Finite.surjective_of_injective hinj (syndromeVector T)
  exact ⟨x, syndromeVector_injective hx⟩

theorem syndromesOf_zero : syndromesOf (Vector.replicate 10 0) = ⟨0, 0, 0, 0⟩ := by decide

/-- Settles O16: a code word that is 0 in six places is the zero word, the basis word b5 has weight
five, and four symbols complete any other six in one way. -/
theorem minimumDistanceFive : Obligations.MinimumDistanceFive := by
  refine ⟨fun y hy ⟨i, hi⟩ => ?_, ?_, fun u => ?_⟩
  · by_contra hcard
    have hzero : y = Vector.replicate 10 0 :=
      eq_of_syndromesOf_eq _ (Nat.le_of_lt_succ (Nat.lt_of_not_le hcard))
        (hy.trans syndromesOf_zero.symm) fun i hi => by simpa using hi
    exact hi (by simp [hzero])
  · exact ⟨#v[1, 7, 6, 7, 1, 0, 0, 0, 0, 0], by decide, by decide⟩
  · obtain ⟨x, hx⟩ := exists_syndromesOf_withHead u ⟨0, 0, 0, 0⟩
    refine ⟨withHead x u, ⟨hx, fun i => withHead_tail x u⟩, fun y ⟨hy, htail⟩ => ?_⟩
    refine eq_of_syndromesOf_eq_of_tail_eq (hy.trans hx.symm) fun i hi => ?_
    rw [htail i hi, withHead_tail x u hi]

/-- Settles O17: a word that is 0 at positions 5..10 can have any syndromes. -/
theorem everySyndromeReachable : Obligations.EverySyndromeReachable := by
  intro T
  obtain ⟨x, hx⟩ := exists_syndromesOf_withHead (Vector.replicate 10 0) T
  exact ⟨_, hx⟩

end Sys2Proof.Proofs

namespace Sys2Proof.Proofs

open Sys2Proof.Machine Sys2Proof.Spec Sys2Proof.Laws
open scoped Fin.CommRing

/-! ### Division and roots, as case 3 uses them (R116, R117) -/

theorem gf_div_ok_iff (a b v : GF11) : Gf.div a b = .ok v ↔ b ≠ 0 ∧ v * b = a := by
  constructor
  · exact gf_div_ok
  · rintro ⟨hb, rfl⟩
    exact gf_div_mul_cancel v hb

theorem exists_mul_eq (a : GF11) {b : GF11} (hb : b ≠ 0) : ∃ v, v * b = a := by
  obtain ⟨v, -, hv⟩ := exists_gf_inv_ok hb
  exact ⟨a * v, by linear_combination a * hv⟩

theorem gf_two_mul_ne_zero {a : GF11} (ha : a ≠ 0) : 2 * a ≠ 0 := by
  revert a
  decide

/-- Under the guard of case 3 both choices of the root answer, one the negation of the other, and
the smaller is in 1..5 (R167, R171, R174). -/
theorem exists_sqrtWith_ok {d : GF11} (h : d ∈ ([1, 3, 4, 5, 9] : List GF11)) :
    ∃ r, Gf.sqrtWith .smaller d = .ok r ∧ Gf.sqrtWith .larger d = .ok (-r) ∧ r * r = d ∧ r ≠ 0 ∧
      r ≤ 5 := by
  revert d
  decide

theorem mul_self_mem_residues {a : GF11} (ha : a ≠ 0) :
    a * a ∈ ([1, 3, 4, 5, 9] : List GF11) := by
  revert a
  decide

/-! ### The case dispatch (R164) -/

/-- Case 1's condition (R165). -/
abbrev ZeroErrorCase (S : Syndromes) : Prop := S.s1 = 0 ∧ S.s2 = 0 ∧ S.s3 = 0 ∧ S.s4 = 0

/-- Case 2's condition without the order (R166). -/
abbrev OneErrorCase (S : Syndromes) : Prop :=
  (locatorOf S).p = 0 ∧ (locatorOf S).q = 0 ∧ (locatorOf S).r = 0

/-- Case 3's condition without the order (R167). -/
abbrev TwoErrorCase (S : Syndromes) : Prop :=
  (locatorOf S).p ≠ 0 ∧ (locatorOf S).r ≠ 0 ∧ (locatorOf S).d ∈ ([1, 3, 4, 5, 9] : List GF11)

section Dispatch

variable {root : SqrtRoot} {S : Syndromes}

theorem diagnoseWith_of_zero (h : ZeroErrorCase S) : diagnoseWith root S = .ok .zeroErrors := by
  rw [diagnoseWith, if_pos h]

theorem diagnoseWith_of_one (h0 : ¬ ZeroErrorCase S) (h1 : OneErrorCase S) :
    diagnoseWith root S = solveOne S := by
  rw [diagnoseWith, if_neg h0, if_pos h1]

/-- Case 3 excludes the two cases before it. -/
theorem diagnoseWith_of_two (h2 : TwoErrorCase S) :
    diagnoseWith root S = solveTwo root S (locatorOf S) := by
  have h1 : ¬ OneErrorCase S := fun h => h2.1 h.1
  have h0 : ¬ ZeroErrorCase S := by
    rintro ⟨hs1, hs2, hs3, hs4⟩
    exact h1 (by simp [OneErrorCase, locatorOf_eq, hs1, hs2, hs3])
  rw [diagnoseWith, if_neg h0, if_neg h1, if_pos h2]

theorem diagnoseWith_of_none (h0 : ¬ ZeroErrorCase S) (h1 : ¬ OneErrorCase S)
    (h2 : ¬ TwoErrorCase S) : diagnoseWith root S = .ok .uncorrectable := by
  rw [diagnoseWith, if_neg h0, if_neg h1, if_neg h2]

/-- Only case 3 takes a root (R174). -/
theorem diagnoseWith_root_irrelevant (h2 : ¬ TwoErrorCase S) (root' : SqrtRoot) :
    diagnoseWith root S = diagnoseWith root' S := by
  simp only [diagnoseWith, if_neg h2]

end Dispatch

/-! ### The two solvers (R166, R167) -/

theorem solveOne_of_s1_eq_zero {S : Syndromes} (h : S.s1 = 0) : solveOne S = .error .divByZero := by
  rw [solveOne, (gf_div_error_iff _ _ _).mpr ⟨h, rfl⟩]

/-- The position of case 2 is the quotient of the first two syndromes, and 0 is no position. -/
theorem solveOne_of_mul_eq {S : Syndromes} {x : GF11} (h1 : S.s1 ≠ 0) (hx : x * S.s1 = S.s2) :
    solveOne S = if x = 0 then .error .badPosition else .ok (.oneError x S.s1) := by
  rw [solveOne, (gf_div_ok_iff _ _ _).mpr ⟨h1, hx⟩]

theorem except_ok_bind {ε α β : Type} (a : α) (f : α → Except ε β) :
    (Except.ok a >>= f) = f a := rfl

theorem solveTwo_of_solution {root : SqrtRoot} {S : Syndromes} {L : Locator}
    {r x1 e1 x2 e2 : GF11} (hr : Gf.sqrtWith root L.d = .ok r)
    (h : TwoErrorSolution S L r x1 e1 x2 e2) :
    solveTwo root S L = .ok (.twoErrors x1 e1 x2 e2) := by
  obtain ⟨-, h2p, hx1, hx2, hne, he2, he1⟩ := h
  have hpos2 := (gf_div_ok_iff _ _ _).mpr ⟨h2p, hx2⟩
  have hpos1 := (gf_div_ok_iff _ _ _).mpr ⟨h2p, hx1⟩
  have hmag2 := (gf_div_ok_iff _ _ _).mpr ⟨hne, he2⟩
  simp only [solveTwo, gf_sub_eq, gf_add_eq, gf_mul_eq, except_ok_bind, hr, hpos1, hpos2, hmag2,
    he1]

/-- The negated root exchanges the pairs of a solution (R174). -/
theorem TwoErrorSolution.swap {S : Syndromes} {L : Locator} {r x1 e1 x2 e2 : GF11}
    (h : TwoErrorSolution S L r x1 e1 x2 e2) : TwoErrorSolution S L (-r) x2 e2 x1 e1 where
  root := by linear_combination h.root
  double_p := h.double_p
  first := by linear_combination h.second
  second := by linear_combination h.first
  distinct := fun h0 => h.distinct (by linear_combination -h0)
  second_mag := by linear_combination h.second_mag + (x2 - x1) * h.first_mag
  first_mag := by linear_combination h.first_mag

/-- The equations of case 3 have a solution, so none of its divisions faults (R171). -/
theorem exists_twoErrorSolution (S : Syndromes) {L : Locator} {r : GF11} (hp : L.p ≠ 0)
    (hr : r * r = L.d) (hr0 : r ≠ 0) : ∃ x1 e1 x2 e2, TwoErrorSolution S L r x1 e1 x2 e2 := by
  have h2p := gf_two_mul_ne_zero hp
  obtain ⟨x1, hx1⟩ := exists_mul_eq (0 - L.q + r) h2p
  obtain ⟨x2, hx2⟩ := exists_mul_eq (0 - L.q - r) h2p
  have hne : x1 - x2 ≠ 0 := fun h0 =>
    gf_two_mul_ne_zero hr0 (by linear_combination 2 * L.p * h0 - hx1 + hx2)
  obtain ⟨e2, he2⟩ := exists_mul_eq (x1 * S.s1 - S.s2) hne
  exact ⟨x1, S.s1 - e2, x2, e2, hr, h2p, hx1, hx2, hne, he2, rfl⟩

/-- Case 3 answers the solution of its equations, which the larger root writes with the pairs
exchanged (R167, R171, R174). -/
theorem exists_diagnosis_of_two {S : Syndromes} (h : TwoErrorCase S) :
    ∃ r x1 e1 x2 e2, r ≠ 0 ∧ r ≤ 5 ∧ TwoErrorSolution S (locatorOf S) r x1 e1 x2 e2 ∧
      diagnoseWith .smaller S = .ok (.twoErrors x1 e1 x2 e2) ∧
      diagnoseWith .larger S = .ok (.twoErrors x2 e2 x1 e1) := by
  obtain ⟨hp, -, hd⟩ := id h
  obtain ⟨r, hsmaller, hlarger, hr, hr0, hr5⟩ := exists_sqrtWith_ok hd
  obtain ⟨x1, e1, x2, e2, hsol⟩ := exists_twoErrorSolution S hp hr hr0
  exact ⟨r, x1, e1, x2, e2, hr0, hr5, hsol,
    (diagnoseWith_of_two h).trans (solveTwo_of_solution hsmaller hsol),
    (diagnoseWith_of_two h).trans (solveTwo_of_solution hlarger hsol.swap)⟩

/-! ### The syndromes of one and of two errors (R144, R170) -/

/-- The syndromes of an error `e` at position `x` (R144). -/
def singleSyndromes (x e : GF11) : Syndromes := ⟨e, e * x, e * (x * x), e * (x * x * x)⟩

/-- The syndromes of errors `e1` at position `x1` and `e2` at position `x2` (R144). -/
def doubleSyndromes (x1 e1 x2 e2 : GF11) : Syndromes :=
  ⟨e1 + e2, e1 * x1 + e2 * x2, e1 * (x1 * x1) + e2 * (x2 * x2),
    e1 * (x1 * x1 * x1) + e2 * (x2 * x2 * x2)⟩

/-- Two error pairs at different positions, none of them "no pair". -/
structure DoubleError (x1 e1 x2 e2 : GF11) : Prop where
  pos1 : x1 ≠ 0
  pos2 : x2 ≠ 0
  distinct : x1 ≠ x2
  mag1 : e1 ≠ 0
  mag2 : e2 ≠ 0

/-- The locator of a double error: its polynomial is P·(x − x1)·(x − x2), and D is the square of
P·(x1 − x2) (R170). -/
theorem locatorOf_double (x1 e1 x2 e2 : GF11) :
    ∃ p, p = -(e1 * e2 * (x1 - x2) ^ 2) ∧ locatorOf (doubleSyndromes x1 e1 x2 e2) =
      ⟨p, -(p * (x1 + x2)), p * (x1 * x2), p * (x1 - x2) * (p * (x1 - x2))⟩ := by
  refine ⟨_, rfl, ?_⟩
  rw [locatorOf_eq, doubleSyndromes, Locator.mk.injEq]
  refine ⟨?_, ?_, ?_, ?_⟩ <;> ring

theorem DoubleError.twoErrorCase {x1 e1 x2 e2 : GF11} (h : DoubleError x1 e1 x2 e2) :
    TwoErrorCase (doubleSyndromes x1 e1 x2 e2) := by
  have := isDomain_gf11
  obtain ⟨p, hp, hL⟩ := locatorOf_double x1 e1 x2 e2
  have hne : x1 - x2 ≠ 0 := sub_ne_zero.mpr h.distinct
  have hmags : e1 * e2 ≠ 0 := mul_ne_zero h.mag1 h.mag2
  have hp0 : p ≠ 0 := hp ▸ neg_ne_zero.mpr (mul_ne_zero hmags (pow_ne_zero 2 hne))
  rw [TwoErrorCase, hL]
  exact ⟨hp0, mul_ne_zero hp0 (mul_ne_zero h.pos1 h.pos2),
    mul_self_mem_residues (mul_ne_zero hp0 hne)⟩

/-- A double error solves the equations of case 3 for its own syndromes (R170). -/
theorem DoubleError.solution {x1 e1 x2 e2 : GF11} (h : DoubleError x1 e1 x2 e2) :
    TwoErrorSolution (doubleSyndromes x1 e1 x2 e2) (locatorOf (doubleSyndromes x1 e1 x2 e2))
      ((locatorOf (doubleSyndromes x1 e1 x2 e2)).p * (x1 - x2)) x1 e1 x2 e2 := by
  have h2p := gf_two_mul_ne_zero h.twoErrorCase.1
  obtain ⟨p, -, hL⟩ := locatorOf_double x1 e1 x2 e2
  rw [hL] at h2p ⊢
  have hmag2 : e2 * (x1 - x2) = x1 * (e1 + e2) - (e1 * x1 + e2 * x2) := by ring
  have hmag1 : e1 = e1 + e2 - e2 := by ring
  exact ⟨rfl, h2p, by ring, by ring, sub_ne_zero.mpr h.distinct, hmag2, hmag1⟩

section LocatorRoots

variable {K : Type} [Field K] {s1 s2 s3 s4 p q c r x1 x2 e1 e2 : K}

/-- The algebra behind case 3, in any field: the coefficients of the locator polynomial annihilate
the syndromes, and with its two roots as positions the last two syndromes follow from the first two
(R170). -/
theorem syndromes_of_closed_form (hp : p = s2 * s2 - s1 * s3) (hq : q = s1 * s4 - s2 * s3)
    (hc : c = s3 * s3 - s2 * s4) (h2p : 2 * p ≠ 0) (hr : r * r = q * q - 4 * (p * c))
    (hx1 : x1 * (2 * p) = 0 - q + r) (hx2 : x2 * (2 * p) = 0 - q - r)
    (he2 : e2 * (x1 - x2) = x1 * s1 - s2) (he1 : e1 = s1 - e2) :
    s1 = e1 + e2 ∧ s2 = e1 * x1 + e2 * x2 ∧ s3 = e1 * (x1 * x1) + e2 * (x2 * x2) ∧
      s4 = e1 * (x1 * x1 * x1) + e2 * (x2 * x2 * x2) := by
  have root1 := root_of_closed_form h2p hr hx1
  have root2 := root_of_closed_form h2p (by rw [neg_mul_neg, hr]) (hx2.trans (sub_eq_add_neg ..))
  have hP : p ≠ 0 := right_ne_zero_of_mul h2p
  have hs1 : s1 = e1 + e2 := by linear_combination -he1
  have hs2 : s2 = e1 * x1 + e2 * x2 := by linear_combination -x1 * he1 + he2
  have annihilate1 : p * s3 + q * s2 + c * s1 = 0 := by
    rw [hp, hq, hc]
    ring
  have annihilate2 : p * s4 + q * s3 + c * s2 = 0 := by
    rw [hp, hq, hc]
    ring
  have hs3 : s3 = e1 * (x1 * x1) + e2 * (x2 * x2) := mul_left_cancel₀ hP (by
    linear_combination annihilate1 - e1 * root1 - e2 * root2 - q * hs2 - c * hs1)
  have hs4 : s4 = e1 * (x1 * x1 * x1) + e2 * (x2 * x2 * x2) := mul_left_cancel₀ hP (by
    linear_combination annihilate2 - e1 * x1 * root1 - e2 * x2 * root2 - q * hs3 - c * hs2)
  exact ⟨hs1, hs2, hs3, hs4⟩

end LocatorRoots

/-- A solution of case 3 has the syndromes it was computed from (R170). -/
theorem TwoErrorSolution.eq_double {S : Syndromes} {r x1 e1 x2 e2 : GF11}
    (h : TwoErrorSolution S (locatorOf S) r x1 e1 x2 e2) : S = doubleSyndromes x1 e1 x2 e2 := by
  have : Fact (Nat.Prime 11) := ⟨by norm_num⟩
  obtain ⟨hr, h2p, hx1, hx2, -, he2, he1⟩ := h
  rw [locatorOf_eq] at hr h2p hx1 hx2
  obtain ⟨h1, h2, h3, h4⟩ :=
    syndromes_of_closed_form (K := ZMod 11) rfl rfl rfl h2p hr hx1 hx2 he2 he1
  exact Syndromes.mk.injEq .. |>.mpr ⟨h1, h2, h3, h4⟩

/-- Case 3's solution is a double error (R171). -/
theorem TwoErrorSolution.doubleError {S : Syndromes} {r x1 e1 x2 e2 : GF11}
    (h : TwoErrorSolution S (locatorOf S) r x1 e1 x2 e2) (hR : (locatorOf S).r ≠ 0) :
    DoubleError x1 e1 x2 e2 := by
  obtain ⟨hx1, he1, hx2, he2⟩ := h.ne_zero hR
  exact ⟨hx1, hx2, sub_ne_zero.mp h.distinct, he1, he2⟩

/-! ### The diagnosis of every syndrome vector (R173) -/

/-- A double error is diagnosed as its two pairs, in the order that the root gives (R172, R174). -/
theorem DoubleError.diagnoseWith_eq {x1 e1 x2 e2 : GF11} (h : DoubleError x1 e1 x2 e2)
    (root : SqrtRoot) :
    diagnoseWith root (doubleSyndromes x1 e1 x2 e2) = .ok (.twoErrors x1 e1 x2 e2) ∨
      diagnoseWith root (doubleSyndromes x1 e1 x2 e2) = .ok (.twoErrors x2 e2 x1 e1) := by
  have := isDomain_gf11
  have hsol := h.solution
  have hcase := h.twoErrorCase
  obtain ⟨-, -, hd⟩ := id hcase
  obtain ⟨r, hr⟩ : ∃ r, Gf.sqrtWith root (locatorOf (doubleSyndromes x1 e1 x2 e2)).d = .ok r := by
    obtain ⟨r, hsmaller, hlarger, -⟩ := exists_sqrtWith_ok hd
    cases root
    · exact ⟨_, hsmaller⟩
    · exact ⟨_, hlarger⟩
  rw [diagnoseWith_of_two hcase]
  obtain rfl | rfl := mul_self_eq_mul_self_iff.mp ((gf_sqrtWith_ok hr).trans hsol.root.symm)
  · exact .inl (solveTwo_of_solution hr hsol)
  · exact .inr (solveTwo_of_solution hr hsol.swap)

theorem locatorOf_single (x e : GF11) : locatorOf (singleSyndromes x e) = ⟨0, 0, 0, 0⟩ := by
  rw [locatorOf_eq, singleSyndromes, Locator.mk.injEq]
  refine ⟨?_, ?_, ?_, ?_⟩ <;> ring

/-- A single error is diagnosed as its pair (R172). -/
theorem diagnoseWith_single {x e : GF11} (hx : x ≠ 0) (he : e ≠ 0) (root : SqrtRoot) :
    diagnoseWith root (singleSyndromes x e) = .ok (.oneError x e) := by
  have h1 : OneErrorCase (singleSyndromes x e) := by simp [OneErrorCase, locatorOf_single]
  rw [diagnoseWith_of_one (fun h => he h.1) h1,
    solveOne_of_mul_eq he (x := x) (mul_comm x e), if_neg hx]
  rfl

theorem diagnoseWith_lastSyndrome {s : GF11} (hs : s ≠ 0) (root : SqrtRoot) :
    diagnoseWith root ⟨0, 0, 0, s⟩ = .error .divByZero := by
  rw [diagnoseWith_of_one (fun ⟨_, _, _, h4⟩ => hs h4) (by simp [OneErrorCase, locatorOf_eq]),
    solveOne_of_s1_eq_zero rfl]

theorem diagnoseWith_firstSyndrome {s : GF11} (hs : s ≠ 0) (root : SqrtRoot) :
    diagnoseWith root ⟨s, 0, 0, 0⟩ = .error .badPosition := by
  rw [diagnoseWith_of_one (fun h => hs h.1) (by simp [OneErrorCase, locatorOf_eq]),
    solveOne_of_mul_eq hs (x := 0) (zero_mul s), if_pos rfl]

/-- The six outcomes of a diagnosis and the syndromes of each (R173). -/
inductive SyndromeOutcome : Syndromes → Except CmdFault Diagnosis → Prop
  | zeroErrors : SyndromeOutcome ⟨0, 0, 0, 0⟩ (.ok .zeroErrors)
  | oneError {x e : GF11} (hx : x ≠ 0) (he : e ≠ 0) :
      SyndromeOutcome (singleSyndromes x e) (.ok (.oneError x e))
  | twoErrors {x1 e1 x2 e2 : GF11} (h : DoubleError x1 e1 x2 e2) :
      SyndromeOutcome (doubleSyndromes x1 e1 x2 e2) (.ok (.twoErrors x1 e1 x2 e2))
  | uncorrectable {S : Syndromes} : SyndromeOutcome S (.ok .uncorrectable)
  | divByZero {s : GF11} (hs : s ≠ 0) : SyndromeOutcome ⟨0, 0, 0, s⟩ (.error .divByZero)
  | badPosition {s : GF11} (hs : s ≠ 0) : SyndromeOutcome ⟨s, 0, 0, 0⟩ (.error .badPosition)

/-- Case 2's syndromes are a geometric progression, or three zeros and one more (R166, R173). -/
theorem oneErrorCase_cases {S : Syndromes} (h : OneErrorCase S) :
    (∃ s, S = ⟨0, 0, 0, s⟩) ∨ ∃ x e, e ≠ 0 ∧ S = singleSyndromes x e := by
  have := isDomain_gf11
  obtain ⟨s1, s2, s3, s4⟩ := S
  rw [OneErrorCase, locatorOf_eq] at h
  obtain ⟨hp, hq, hr⟩ := h
  dsimp only at hp hq hr
  by_cases h1 : s1 = 0
  · subst h1
    obtain rfl : s2 = 0 := mul_self_eq_zero.mp (by linear_combination hp)
    obtain rfl : s3 = 0 := mul_self_eq_zero.mp (by linear_combination hr)
    exact .inl ⟨s4, rfl⟩
  · obtain ⟨x, rfl⟩ := exists_mul_eq s2 h1
    obtain rfl : s3 = s1 * (x * x) := mul_left_cancel₀ h1 (by linear_combination -hp)
    obtain rfl : s4 = s1 * (x * x * x) := mul_left_cancel₀ h1 (by linear_combination hq)
    exact .inr ⟨x, s1, h1, by rw [singleSyndromes, mul_comm]⟩

theorem singleSyndromes_zero (e : GF11) : singleSyndromes 0 e = ⟨e, 0, 0, 0⟩ := by
  simp [singleSyndromes]

/-- Everything a diagnosis can answer (R164 to R168, R173). -/
theorem diagnoseWith_outcome (root : SqrtRoot) (S : Syndromes) :
    SyndromeOutcome S (diagnoseWith root S) := by
  by_cases h0 : ZeroErrorCase S
  · rw [diagnoseWith_of_zero h0]
    obtain ⟨s1, s2, s3, s4⟩ := S
    obtain ⟨rfl, rfl, rfl, rfl⟩ := h0
    exact .zeroErrors
  by_cases h1 : OneErrorCase S
  · obtain ⟨s, rfl⟩ | ⟨x, e, he, rfl⟩ := oneErrorCase_cases h1
    · have hs : s ≠ 0 := fun h => h0 ⟨rfl, rfl, rfl, h⟩
      rw [diagnoseWith_lastSyndrome hs]
      exact .divByZero hs
    · by_cases hx : x = 0
      · rw [hx, singleSyndromes_zero, diagnoseWith_firstSyndrome he]
        exact .badPosition he
      · rw [diagnoseWith_single hx he]
        exact .oneError hx he
  by_cases h2 : TwoErrorCase S
  · obtain ⟨r, x1, e1, x2, e2, -, -, hsol, hsmaller, hlarger⟩ := exists_diagnosis_of_two h2
    obtain ⟨-, hR, -⟩ := h2
    cases root
    · rw [hsmaller, hsol.eq_double]
      exact .twoErrors (hsol.doubleError hR)
    · rw [hlarger, hsol.swap.eq_double]
      exact .twoErrors (hsol.swap.doubleError hR)
  · rw [diagnoseWith_of_none h0 h1 h2]
    exact .uncorrectable

/-- What an answer says of the syndromes it was found in. -/
theorem outcome_of_diagnose {S : Syndromes} {o : Except CmdFault Diagnosis} (h : diagnose S = o) :
    SyndromeOutcome S o :=
  h ▸ diagnoseWith_outcome Config.sqrtRoot S

/-! ### The choice of the root (R174) -/

theorem subtractAt_comm (y : Codeword) (p1 e1 p2 e2 : GF11) :
    subtractAt (subtractAt y p1 e1) p2 e2 = subtractAt (subtractAt y p2 e2) p1 e1 := by
  refine Vector.ext fun i hi => ?_
  simp only [subtractAt_getElem]
  split_ifs
  · exact sub_right_comm ..
  all_goals rfl

/-- Settles O24: the larger root is the negated one, and the two corrections commute. -/
theorem rootChoiceOnlySwapsPairs : Obligations.RootChoiceOnlySwapsPairs := by
  intro T
  by_cases h2 : TwoErrorCase T
  · obtain ⟨r, x1, e1, x2, e2, -, -, -, hsmaller, hlarger⟩ := exists_diagnosis_of_two h2
    refine ⟨fun y1 m1 y2 m2 h => ?_, fun h => absurd hsmaller (h x1 e1 x2 e2)⟩
    cases hsmaller.symm.trans h
    exact ⟨hlarger, fun y => subtractAt_comm y x1 e1 x2 e2⟩
  · refine ⟨fun x1 e1 x2 e2 h => ?_, fun _ => diagnoseWith_root_irrelevant h2 _⟩
    have houtcome := diagnoseWith_outcome .smaller T
    rw [h] at houtcome
    cases houtcome with
    | twoErrors hdouble => exact absurd hdouble.twoErrorCase h2

end Sys2Proof.Proofs

namespace Sys2Proof.Proofs

open Sys2Proof.Machine Sys2Proof.Spec Sys2Proof.Laws
open scoped Fin.CommRing

/-! ### Which syndromes have which outcome (R173) -/

theorem diagnose_eq_zeroErrors_iff (T : Syndromes) :
    diagnose T = .ok .zeroErrors ↔ T = ⟨0, 0, 0, 0⟩ := by
  constructor
  · intro h
    cases outcome_of_diagnose h
    rfl
  · rintro rfl
    exact diagnoseWith_of_zero ⟨rfl, rfl, rfl, rfl⟩

theorem exists_diagnose_eq_oneError_iff (T : Syndromes) :
    (∃ x e, diagnose T = .ok (.oneError x e)) ↔
      ∃ x e, x ≠ 0 ∧ e ≠ 0 ∧ T = singleSyndromes x e := by
  constructor
  · rintro ⟨x, e, h⟩
    cases outcome_of_diagnose h with
    | oneError hx he => exact ⟨x, e, hx, he, rfl⟩
  · rintro ⟨x, e, hx, he, rfl⟩
    exact ⟨x, e, diagnoseWith_single hx he _⟩

theorem exists_diagnose_eq_twoErrors_iff (T : Syndromes) :
    (∃ x1 e1 x2 e2, diagnose T = .ok (.twoErrors x1 e1 x2 e2)) ↔
      ∃ x1 e1 x2 e2, DoubleError x1 e1 x2 e2 ∧ T = doubleSyndromes x1 e1 x2 e2 := by
  constructor
  · rintro ⟨x1, e1, x2, e2, h⟩
    cases outcome_of_diagnose h with
    | twoErrors hdouble => exact ⟨x1, e1, x2, e2, hdouble, rfl⟩
  · rintro ⟨x1, e1, x2, e2, hdouble, rfl⟩
    obtain h | h := hdouble.diagnoseWith_eq Config.sqrtRoot
    · exact ⟨_, _, _, _, h⟩
    · exact ⟨_, _, _, _, h⟩

theorem diagnose_eq_divByZero_iff (T : Syndromes) :
    diagnose T = .error .divByZero ↔ ∃ s, s ≠ 0 ∧ T = ⟨0, 0, 0, s⟩ := by
  constructor
  · intro h
    cases outcome_of_diagnose h with
    | divByZero hs => exact ⟨_, hs, rfl⟩
  · rintro ⟨s, hs, rfl⟩
    exact diagnoseWith_lastSyndrome hs _

theorem diagnose_eq_badPosition_iff (T : Syndromes) :
    diagnose T = .error .badPosition ↔ ∃ s, s ≠ 0 ∧ T = ⟨s, 0, 0, 0⟩ := by
  constructor
  · intro h
    cases outcome_of_diagnose h with
    | badPosition hs => exact ⟨_, hs, rfl⟩
  · rintro ⟨s, hs, rfl⟩
    exact diagnoseWith_firstSyndrome hs _

/-- DECODE's two faults beside RANGE (R160). -/
theorem diagnose_error_cases {T : Syndromes} {c : CmdFault} (h : diagnose T = .error c) :
    c = .divByZero ∨ c = .badPosition := by
  cases outcome_of_diagnose h
  · exact .inl rfl
  · exact .inr rfl

/-! ### How many syndromes have each outcome (R173) -/

/-- A concatenation has no duplicates when each part has none and names the entry it belongs to. -/
theorem nodup_flatMap_of_key {α β : Type} {l : List α} {f : α → List β} (key : β → α)
    (hl : l.Nodup) (hf : ∀ a, (f a).Nodup) (hkey : ∀ a, ∀ b ∈ f a, key b = a) :
    (l.flatMap f).Nodup := by
  refine List.nodup_flatMap.mpr ⟨fun a _ => hf a, hl.imp fun {a a'} hne b hb hb' => hne ?_⟩
  exact (hkey a b hb).symm.trans (hkey a' b hb')

theorem nodup_allSyndromes : allSyndromes.Nodup := by
  refine nodup_flatMap_of_key Syndromes.s1 (List.nodup_finRange 11) (fun s1 => ?_)
    (by simp +contextual [eq_comm])
  refine nodup_flatMap_of_key Syndromes.s2 (List.nodup_finRange 11) (fun s2 => ?_)
    (by simp +contextual [eq_comm])
  refine nodup_flatMap_of_key Syndromes.s3 (List.nodup_finRange 11) (fun s3 => ?_)
    (by simp +contextual [eq_comm])
  exact (List.nodup_finRange 11).map fun s4 t4 h => congrArg Syndromes.s4 h

theorem mem_allSyndromes (T : Syndromes) : T ∈ allSyndromes := by
  obtain ⟨s1, s2, s3, s4⟩ := T
  simp [allSyndromes]

theorem length_allSyndromes : allSyndromes.length = 14641 := by
  simp [allSyndromes]

/-- A count over all syndromes is the size of the set that is counted. -/
theorem countP_allSyndromes {P : Syndromes → Prop} [DecidablePred P] {s : Finset Syndromes}
    (h : ∀ T, P T ↔ T ∈ s) : allSyndromes.countP (fun T => P T) = s.card := by
  rw [List.countP_eq_length_filter, ← List.toFinset_card_of_nodup (nodup_allSyndromes.filter _)]
  congr 1
  ext T
  simp [mem_allSyndromes, h]

/-- The nonzero field elements: the positions, and the magnitudes (R38). -/
def nonzeroGf : Finset GF11 := Finset.univ.erase 0

theorem mem_nonzeroGf {x : GF11} : x ∈ nonzeroGf ↔ x ≠ 0 := by simp [nonzeroGf]

theorem card_nonzeroGf : nonzeroGf.card = 10 := rfl

/-- The pairs of two positions, each in ascending order. -/
def positionPairs : Finset (GF11 × GF11) := (nonzeroGf ×ˢ nonzeroGf).filter fun x => x.1 < x.2

theorem card_positionPairs : positionPairs.card = 45 := by decide

theorem countP_zeroErrors : allSyndromes.countP (fun T => diagnose T = .ok .zeroErrors) = 1 :=
  (countP_allSyndromes (s := {⟨0, 0, 0, 0⟩}) fun T => by
    rw [diagnose_eq_zeroErrors_iff, Finset.mem_singleton]).trans (Finset.card_singleton _)

theorem countP_divByZero :
    allSyndromes.countP (fun T => diagnose T = .error .divByZero) = 10 := by
  refine (countP_allSyndromes (s := nonzeroGf.image fun s => ⟨0, 0, 0, s⟩) fun T => ?_).trans ?_
  · rw [diagnose_eq_divByZero_iff]
    simp only [Finset.mem_image, mem_nonzeroGf, eq_comm]
  · exact Finset.card_image_of_injective _ fun s t h => congrArg Syndromes.s4 h

theorem countP_badPosition :
    allSyndromes.countP (fun T => diagnose T = .error .badPosition) = 10 := by
  refine (countP_allSyndromes (s := nonzeroGf.image fun s => ⟨s, 0, 0, 0⟩) fun T => ?_).trans ?_
  · rw [diagnose_eq_badPosition_iff]
    simp only [Finset.mem_image, mem_nonzeroGf, eq_comm]
  · exact Finset.card_image_of_injective _ fun s t h => congrArg Syndromes.s1 h

theorem cls_eq_oneError_iff (o : Except CmdFault Diagnosis) :
    o.toOption.map Diagnosis.cls = some .oneError ↔ ∃ x e, o = .ok (.oneError x e) := by
  obtain c | d := o
  · simp [Except.toOption]
  · cases d <;> simp [Except.toOption, Diagnosis.cls]

theorem cls_eq_twoErrors_iff (o : Except CmdFault Diagnosis) :
    o.toOption.map Diagnosis.cls = some .twoErrors ↔
      ∃ x1 e1 x2 e2, o = .ok (.twoErrors x1 e1 x2 e2) := by
  obtain c | d := o
  · simp [Except.toOption]
  · cases d <;> simp [Except.toOption, Diagnosis.cls]

theorem countP_oneError :
    allSyndromes.countP (fun T => (diagnose T).toOption.map Diagnosis.cls = some .oneError) =
      100 := by
  refine (countP_allSyndromes (s := (nonzeroGf ×ˢ nonzeroGf).image fun t => singleSyndromes t.1 t.2)
    fun T => ?_).trans ?_
  · rw [cls_eq_oneError_iff, exists_diagnose_eq_oneError_iff]
    simp only [Finset.mem_image, Finset.mem_product, Prod.exists, mem_nonzeroGf, and_assoc, eq_comm]
  · rw [Finset.card_image_of_injOn, Finset.card_product, card_nonzeroGf]
    rintro ⟨x, e⟩ hxe ⟨y, f⟩ hyf (h : singleSyndromes x e = singleSyndromes y f)
    obtain ⟨hx, he⟩ := Finset.mem_product.mp hxe
    obtain ⟨hy, hf⟩ := Finset.mem_product.mp hyf
    have hd := diagnoseWith_single (mem_nonzeroGf.mp hx) (mem_nonzeroGf.mp he) .smaller
    rw [h, diagnoseWith_single (mem_nonzeroGf.mp hy) (mem_nonzeroGf.mp hf)] at hd
    cases hd
    rfl

theorem doubleSyndromes_comm (x1 e1 x2 e2 : GF11) :
    doubleSyndromes x1 e1 x2 e2 = doubleSyndromes x2 e2 x1 e1 := by
  simp only [doubleSyndromes, add_comm]

theorem DoubleError.swap {x1 e1 x2 e2 : GF11} (h : DoubleError x1 e1 x2 e2) :
    DoubleError x2 e2 x1 e1 :=
  ⟨h.pos2, h.pos1, h.distinct.symm, h.mag2, h.mag1⟩

/-- The syndromes of a double error determine its pairs up to their order, since one of the two
orders is the diagnosis. -/
theorem DoubleError.pairs_of_eq {x1 e1 x2 e2 y1 f1 y2 f2 : GF11} (h : DoubleError x1 e1 x2 e2)
    (h' : DoubleError y1 f1 y2 f2)
    (heq : doubleSyndromes x1 e1 x2 e2 = doubleSyndromes y1 f1 y2 f2) :
    (x1 = y1 ∧ e1 = f1 ∧ x2 = y2 ∧ e2 = f2) ∨ (x1 = y2 ∧ e1 = f2 ∧ x2 = y1 ∧ e2 = f1) := by
  have hx := h.diagnoseWith_eq .smaller
  have hy := h'.diagnoseWith_eq .smaller
  rw [← heq] at hy
  obtain hx | hx := hx <;> obtain hy | hy := hy <;> cases hx.symm.trans hy <;> simp

/-- The double errors, each once: the position pair in ascending order, and a magnitude at each. -/
def orderedDoubleErrors : Finset ((GF11 × GF11) × GF11 × GF11) :=
  positionPairs ×ˢ (nonzeroGf ×ˢ nonzeroGf)

theorem card_orderedDoubleErrors : orderedDoubleErrors.card = 4500 := by
  rw [orderedDoubleErrors, Finset.card_product, Finset.card_product, card_positionPairs,
    card_nonzeroGf]

theorem mem_orderedDoubleErrors {x1 e1 x2 e2 : GF11} :
    ((x1, x2), e1, e2) ∈ orderedDoubleErrors ↔ DoubleError x1 e1 x2 e2 ∧ x1 < x2 := by
  simp only [orderedDoubleErrors, positionPairs, Finset.mem_product, Finset.mem_filter,
    mem_nonzeroGf]
  constructor
  · rintro ⟨⟨⟨hx1, hx2⟩, hlt⟩, he1, he2⟩
    exact ⟨⟨hx1, hx2, hlt.ne, he1, he2⟩, hlt⟩
  · rintro ⟨⟨hx1, hx2, -, he1, he2⟩, hlt⟩
    exact ⟨⟨⟨hx1, hx2⟩, hlt⟩, he1, he2⟩

/-- The syndromes of the double errors. -/
def doubleErrorSyndromes : Finset Syndromes :=
  orderedDoubleErrors.image fun t => doubleSyndromes t.1.1 t.2.1 t.1.2 t.2.2

theorem exists_doubleError_iff_mem (T : Syndromes) :
    (∃ x1 e1 x2 e2, DoubleError x1 e1 x2 e2 ∧ T = doubleSyndromes x1 e1 x2 e2) ↔
      T ∈ doubleErrorSyndromes := by
  rw [doubleErrorSyndromes, Finset.mem_image]
  constructor
  · rintro ⟨x1, e1, x2, e2, h, rfl⟩
    obtain hlt | hlt := lt_or_gt_of_ne h.distinct
    · exact ⟨((x1, x2), e1, e2), mem_orderedDoubleErrors.mpr ⟨h, hlt⟩, rfl⟩
    · exact ⟨((x2, x1), e2, e1), mem_orderedDoubleErrors.mpr ⟨h.swap, hlt⟩, doubleSyndromes_comm ..⟩
  · rintro ⟨⟨⟨x1, x2⟩, e1, e2⟩, h, rfl⟩
    exact ⟨x1, e1, x2, e2, (mem_orderedDoubleErrors.mp h).1, rfl⟩

theorem countP_twoErrors :
    allSyndromes.countP (fun T => (diagnose T).toOption.map Diagnosis.cls = some .twoErrors) =
      4500 := by
  refine (countP_allSyndromes (s := doubleErrorSyndromes) fun T => ?_).trans ?_
  · rw [cls_eq_twoErrors_iff, exists_diagnose_eq_twoErrors_iff, exists_doubleError_iff_mem]
  · rw [doubleErrorSyndromes, Finset.card_image_of_injOn, card_orderedDoubleErrors]
    rintro ⟨⟨x1, x2⟩, e1, e2⟩ hx ⟨⟨y1, y2⟩, f1, f2⟩ hy heq
    obtain ⟨hx, hltx⟩ := mem_orderedDoubleErrors.mp hx
    obtain ⟨hy, hlty⟩ := mem_orderedDoubleErrors.mp hy
    obtain ⟨rfl, rfl, rfl, rfl⟩ | ⟨rfl, rfl, rfl, rfl⟩ := hx.pairs_of_eq hy heq
    · rfl
    · exact absurd hltx hlty.asymm

/-- Every diagnosis is one of the six outcomes, so their counts add up. -/
theorem length_eq_sum_countP (l : List Syndromes) :
    l.length = l.countP (fun T => diagnose T = .ok .zeroErrors) +
      l.countP (fun T => (diagnose T).toOption.map Diagnosis.cls = some .oneError) +
      l.countP (fun T => (diagnose T).toOption.map Diagnosis.cls = some .twoErrors) +
      l.countP (fun T => diagnose T = .ok .uncorrectable) +
      l.countP (fun T => diagnose T = .error .divByZero) +
      l.countP (fun T => diagnose T = .error .badPosition) := by
  induction l with
  | nil => rfl
  | cons T l ih =>
    simp only [List.length_cons, List.countP_cons, ih]
    have houtcome := outcome_of_diagnose (S := T) rfl
    generalize diagnose T = o at houtcome
    cases houtcome <;> simp [Except.toOption, Diagnosis.cls] <;> omega

theorem countP_uncorrectable :
    allSyndromes.countP (fun T => diagnose T = .ok .uncorrectable) = 10020 := by
  have h := length_eq_sum_countP allSyndromes
  rw [length_allSyndromes, countP_zeroErrors, countP_oneError, countP_twoErrors, countP_divByZero,
    countP_badPosition] at h
  omega

/-! ### A fault needs four errors (R173) -/

/-- An error pattern of at most three symbols is 0 when three power sums in a row are: the columns
of H at its positions, restricted to those rows, are independent. -/
theorem eq_zero_of_three_powerSums {e : Codeword} (m : Nat)
    (hcard : (Finset.univ.filter fun i : Fin 10 => e[i] ≠ 0).card ≤ 3)
    (h : ∀ k < 3, powerSum e (m + k) = 0) (i : Fin 10) : e[i] = 0 := by
  have := isDomain_gf11
  by_contra hi
  have hpos : element (i.val + 1) ≠ 0 := element_ne_zero (by omega) (by omega)
  refine mul_ne_zero hi (pow_ne_zero m hpos) (eq_zero_of_powerSums_eq_zero
    (D := Finset.univ.filter fun i : Fin 10 => e[i] ≠ 0)
    (v := fun i => e[i] * element (i.val + 1) ^ m) position_injective (fun k hk => ?_)
    (by simpa using hi))
  refine Eq.trans ?_ (h k (hk.trans_le hcard))
  rw [powerSum, Finset.sum_filter_of_ne]
  · simp only [mul_assoc, pow_add]
  · exact fun i _ hne hzero => hne (by rw [hzero, zero_mul, zero_mul])

theorem powerSum_eq_zero_of_three {e : Codeword} (m : Nat)
    (hcard : (Finset.univ.filter fun i : Fin 10 => e[i] ≠ 0).card ≤ 3)
    (h0 : powerSum e m = 0) (h1 : powerSum e (m + 1) = 0) (h2 : powerSum e (m + 2) = 0) (k : Nat) :
    powerSum e k = 0 := by
  have hzero := eq_zero_of_three_powerSums m hcard fun k hk => by
    interval_cases k
    · exact h0
    · exact h1
    · exact h2
  exact Finset.sum_eq_zero fun i _ => by rw [hzero i, zero_mul]

theorem exists_diagnose_ok_of_card_le {e : Codeword}
    (hcard : (Finset.univ.filter fun i : Fin 10 => e[i] ≠ 0).card ≤ 3) :
    ∃ d, diagnose (syndromesOf e) = .ok d := by
  cases hd : diagnose (syndromesOf e) with
  | ok d => exact ⟨d, rfl⟩
  | error c =>
    exfalso
    obtain rfl | rfl := diagnose_error_cases hd
    · obtain ⟨s, hs, hS⟩ := (diagnose_eq_divByZero_iff _).mp hd
      rw [syndromesOf_eq_powerSums, Syndromes.mk.injEq] at hS
      obtain ⟨h1, h2, h3, h4⟩ := hS
      exact hs (h4.symm.trans (powerSum_eq_zero_of_three 0 hcard h1 h2 h3 3))
    · obtain ⟨s, hs, hS⟩ := (diagnose_eq_badPosition_iff _).mp hd
      rw [syndromesOf_eq_powerSums, Syndromes.mk.injEq] at hS
      obtain ⟨h1, h2, h3, h4⟩ := hS
      exact hs (h1.symm.trans (powerSum_eq_zero_of_three 1 hcard h2 h3 h4 0))

theorem diagnose_eq_divByZero_iff_fields (T : Syndromes) :
    diagnose T = .error .divByZero ↔ T.s1 = 0 ∧ T.s2 = 0 ∧ T.s3 = 0 ∧ T.s4 ≠ 0 := by
  rw [diagnose_eq_divByZero_iff]
  constructor
  · rintro ⟨s, hs, rfl⟩
    exact ⟨rfl, rfl, rfl, hs⟩
  · obtain ⟨s1, s2, s3, s4⟩ := T
    rintro ⟨rfl, rfl, rfl, hs⟩
    exact ⟨s4, hs, rfl⟩

theorem diagnose_eq_badPosition_iff_fields (T : Syndromes) :
    diagnose T = .error .badPosition ↔ T.s1 ≠ 0 ∧ T.s2 = 0 ∧ T.s3 = 0 ∧ T.s4 = 0 := by
  rw [diagnose_eq_badPosition_iff]
  constructor
  · rintro ⟨s, hs, rfl⟩
    exact ⟨hs, rfl, rfl, rfl⟩
  · obtain ⟨s1, s2, s3, s4⟩ := T
    rintro ⟨hs, rfl, rfl, rfl⟩
    exact ⟨s1, hs, rfl⟩

theorem doubleError_iff {x1 e1 x2 e2 : GF11} :
    DoubleError x1 e1 x2 e2 ↔ x1 ≠ 0 ∧ x2 ≠ 0 ∧ x1 ≠ x2 ∧ e1 ≠ 0 ∧ e2 ≠ 0 :=
  ⟨fun ⟨hx1, hx2, hne, he1, he2⟩ => ⟨hx1, hx2, hne, he1, he2⟩,
    fun ⟨hx1, hx2, hne, he1, he2⟩ => ⟨hx1, hx2, hne, he1, he2⟩⟩

/-- Settles O23: each answer is given for the syndromes of its errors and no others; the counts are
those of the errors; a fault's three zeros in a row leave no pattern of three symbols. -/
theorem outcomeOfEverySyndrome : Obligations.OutcomeOfEverySyndrome := by
  refine ⟨fun T => ⟨diagnose_eq_zeroErrors_iff T, exists_diagnose_eq_oneError_iff T,
      (exists_diagnose_eq_twoErrors_iff T).trans (by simp only [doubleError_iff, and_assoc]; rfl),
      diagnose_eq_divByZero_iff_fields T, diagnose_eq_badPosition_iff_fields T, ?_⟩,
    countP_zeroErrors, countP_oneError, countP_twoErrors, countP_uncorrectable, countP_divByZero,
    countP_badPosition, fun code e w hcode hw hcard => ?_⟩
  · rintro ⟨c, hc⟩
    obtain rfl | rfl := diagnose_error_cases hc
    · exact .inl hc
    · exact .inr hc
  · obtain ⟨-, hpattern, -⟩ := syndromeLinearity
    rw [hpattern code e w hcode hw]
    exact exists_diagnose_ok_of_card_le hcard

end Sys2Proof.Proofs

namespace Sys2Proof.Proofs

open Sys2Proof.Machine Sys2Proof.Spec Sys2Proof.Laws
open scoped Fin.CommRing

/-! ### The snapshot and the statements' integers as field elements (R140, R163) -/

/-- The word of field elements that a snapshot in range holds (R11, R161). -/
def wordElements (cw : SymbolWord) : Codeword := Vector.ofFn fun i => element (cw[i]).toNat

theorem one_le_val {x : GF11} (hx : x ≠ 0) : 1 ≤ x.val :=
  Nat.one_le_iff_ne_zero.mpr (Fin.val_ne_zero_iff.mpr hx)

theorem val_le_ten (x : GF11) : x.val ≤ 10 := Nat.le_of_lt_succ x.isLt

/-- A residue is the value of the integer in the field (R12). -/
theorem residue_eq_val (x : Int) : residue x = (x : GF11).val := by
  have hcast : ((x : GF11).val : Int) = x % 11 := ZMod.val_intCast (n := 11) x
  rw [residue, ← hcast, Int.toNat_natCast]

/-- Congruence modulo 11 is equality in the field. -/
theorem sub_emod_eq_zero_iff (x y : Int) : (x - y) % 11 = 0 ↔ (x : GF11) = (y : GF11) := by
  rw [← Int.dvd_iff_emod_eq_zero, ← sub_eq_zero (a := (x : GF11)), ← Int.cast_sub]
  exact (ZMod.intCast_zmod_eq_zero_iff_dvd (x - y) 11).symm

section InRangeWord

variable {cw : SymbolWord} (h : InRange cw)
include h

theorem wordElements_val (i : Fin 10) : ((wordElements cw)[i]).val = (cw[i]).toNat := by
  simpa [wordElements] using element_val (h i)

/-- The syndromes are the statements' integers (R140). -/
theorem syndromesOf_val :
    (syndromesOf (wordElements cw)).s1.val = synOf cw 1 ∧
    (syndromesOf (wordElements cw)).s2.val = synOf cw 2 ∧
    (syndromesOf (wordElements cw)).s3.val = synOf cw 3 ∧
    (syndromesOf (wordElements cw)).s4.val = synOf cw 4 :=
  ⟨mod11_weightedSum_val h 0, mod11_weightedSum_val h 1, mod11_weightedSum_val h 2,
    mod11_weightedSum_val h 3⟩

/-- The locator quantities are the statements' integers (R163). -/
theorem locatorOf_val :
    (locatorOf (syndromesOf (wordElements cw))).p.val = pOf cw ∧
    (locatorOf (syndromesOf (wordElements cw))).q.val = qOf cw ∧
    (locatorOf (syndromesOf (wordElements cw))).r.val = rOf cw ∧
    (locatorOf (syndromesOf (wordElements cw))).d.val = dOf cw := by
  obtain ⟨h1, h2, h3, h4⟩ := syndromesOf_val h
  simp only [locatorOf_eq, dOf, pOf, qOf, rOf, residue_eq_val, ← h1, ← h2, ← h3, ← h4]
  push_cast
  exact ⟨rfl, rfl, rfl, rfl⟩

theorem zeroErrorCase_iff : ZeroErrorCase (syndromesOf (wordElements cw)) ↔ ZeroSyndrome cw := by
  obtain ⟨h1, h2, h3, h4⟩ := syndromesOf_val h
  simp only [ZeroErrorCase, ZeroSyndrome, ← h1, ← h2, ← h3, ← h4, Fin.val_eq_zero_iff]

theorem oneErrorCase_iff : OneErrorCase (syndromesOf (wordElements cw)) ↔ ZeroLocator cw := by
  obtain ⟨hp, hq, hr, -⟩ := locatorOf_val h
  simp only [OneErrorCase, ZeroLocator, ← hp, ← hq, ← hr, Fin.val_eq_zero_iff]

theorem twoErrorCase_iff : TwoErrorCase (syndromesOf (wordElements cw)) ↔ TwoErrorLocator cw := by
  have hmem (d : GF11) : d.val ∈ [1, 3, 4, 5, 9] ↔ d ∈ ([1, 3, 4, 5, 9] : List GF11) := by
    revert d
    decide
  obtain ⟨hp, -, hr, hd⟩ := locatorOf_val h
  simp only [TwoErrorCase, TwoErrorLocator, ← hp, ← hr, ← hd, hmem, Fin.val_ne_zero_iff]

theorem symbols_wordElements : symbols (wordElements cw) = cw := by
  refine Vector.ext fun i hi => ?_
  simpa [symbols, wordElements] using symbol_element (h ⟨i, hi⟩)

/-- SYN of a word in range (R36, R140). -/
theorem syndromesOf_wordElements_word : (syndromesOf (wordElements cw)).word = synWord cw :=
  syndromesOf_word h

/-- LOC of a word in range (R37, R163). -/
theorem locatorOf_word : (locatorOf (syndromesOf (wordElements cw))).word = locWord cw := by
  obtain ⟨hp, hq, hr, hd⟩ := locatorOf_val h
  rw [Locator.word, packElements_eq_word, hp, hq, hr, hd, locWord]

end InRangeWord

/-! ### The commit of a DECODE as a whole state (R169, R209) -/

/-- A word of field elements in its three registers, as the integers they hold (R63). -/
theorem packWord_symbols (z : Codeword) :
    packWord (symbols z) =
      (word z[0].val z[1].val z[2].val z[3].val, word z[4].val z[5].val z[6].val z[7].val,
        word z[8].val z[9].val 0 0) := by
  simp only [packWord, symbols, Vector.getElem_ofFn]
  exact congrArg₂ Prod.mk (packElements_eq_word ..)
    (congrArg₂ Prod.mk (packElements_eq_word ..) (packElements_eq_word z[8] z[9] 0 0))

theorem commit_decoded_eq (s : State) {p : Pending} (hop : p.op = 0x9#4) (z : Codeword)
    (S : Syndromes) (L : Locator) (d : Diagnosis) :
    s.commit p (.decoded z S L d) =
      decodeCommitted s (fun i => (z[i]).val) S.word L.word d.errWord d.cls := by
  simp only [State.commit, State.writeResults, Writes.cls, packWord_symbols, hop]
  rfl

theorem computeOf_decode {p : Pending} {d : Diagnosis} (h : InRange p.cw)
    (hd : diagnose (syndromesOf (wordElements p.cw)) = .ok d) (a b : Nat) :
    computeOf (.decode a b) p = .ok (.decoded (d.correct (wordElements p.cw))
      (syndromesOf (wordElements p.cw)) (locatorOf (syndromesOf (wordElements p.cw))) d) := by
  rw [computeOf, decodeCommand_of_range (y := wordElements p.cw) h rfl, hd]

theorem computeOf_decode_error {p : Pending} {c : CmdFault} (h : InRange p.cw)
    (hd : diagnose (syndromesOf (wordElements p.cw)) = .error c) (a b : Nat) :
    computeOf (.decode a b) p = .error c := by
  rw [computeOf, decodeCommand_of_range (y := wordElements p.cw) h rfl, hd]

/-- A pending DECODE of a word in range commits what the diagnosis of its syndromes says (R160). -/
theorem exec_decode_of_ok {s : State} {p : Pending} {d : Diagnosis} (hp : s.phase = .busy p)
    (hop : p.op = 0x9#4) (h : InRange p.cw)
    (hd : diagnose (syndromesOf (wordElements p.cw)) = .ok d) (a b : Nat) :
    exec (.decode a b) s =
      .next (decodeCommitted s (fun i => ((d.correct (wordElements p.cw))[i]).val) (synWord p.cw)
        (locWord p.cw) d.errWord d.cls) := by
  rw [exec_of_ok hp (computeOf_decode h hd a b), commit_decoded_eq s hop, locatorOf_word h,
    syndromesOf_wordElements_word h]

/-- The corrected word as integers (R166, R167). -/
theorem subtractAt_val (z : Codeword) (x e : GF11) :
    (fun i : Fin 10 => ((subtractAt z x e)[i]).val) =
      corrected (fun i => (z[i]).val) x.val e.val := by
  funext i
  have hsub : (z[i] - e).val = (z[i].val + 11 - e.val) % 11 := by
    rw [Fin.val_sub]
    congr 1
    omega
  rw [corrected, ← hsub, Fin.getElem_fin, subtractAt_getElem, apply_ite Fin.val]
  simp only [eq_comm]
  rfl

theorem wordElements_val_eq {cw : SymbolWord} (h : InRange cw) :
    (fun i : Fin 10 => ((wordElements cw)[i]).val) = fun i => (cw[i]).toNat :=
  funext fun i => wordElements_val h i

/-! ### The four cases (R165 to R168) -/

theorem synWord_of_zero {cw : SymbolWord} (h : ZeroSyndrome cw) : synWord cw = 0#16 := by
  obtain ⟨h1, h2, h3, h4⟩ := h
  rw [synWord, h1, h2, h3, h4]
  rfl

theorem locWord_of_zero {cw : SymbolWord} (h : ZeroLocator cw) : locWord cw = 0#16 := by
  obtain ⟨hp, hq, hr⟩ := h
  rw [locWord, dOf, hp, hq, hr]
  rfl

/-- Case 1's condition implies case 2's (R164). -/
theorem zeroLocator_of_zeroSyndrome {cw : SymbolWord} (h : ZeroSyndrome cw) : ZeroLocator cw := by
  obtain ⟨h1, h2, h3, h4⟩ := h
  rw [ZeroLocator, pOf, qOf, rOf, h1, h2, h3, h4]
  exact ⟨rfl, rfl, rfl⟩

/-- Settles O18: the diagnosis corrects nothing, and all its words are 0. -/
theorem decodeCaseZeroErrors : Obligations.DecodeCaseZeroErrors := by
  intro a b s p hp hop h hzero
  have hd : diagnose (syndromesOf (wordElements p.cw)) = .ok .zeroErrors :=
    diagnoseWith_of_zero ((zeroErrorCase_iff h).mpr hzero)
  rw [exec_decode_of_ok hp hop h hd, synWord_of_zero hzero,
    locWord_of_zero (zeroLocator_of_zeroSyndrome hzero), ← wordElements_val_eq h]
  rfl

/-- Settles O19: the position is the quotient of the first two syndromes, where there is one. -/
theorem decodeCaseOneError : Obligations.DecodeCaseOneError := by
  intro a b s p hp hop h hzero hone
  have hd : diagnose (syndromesOf (wordElements p.cw)) = solveOne _ :=
    diagnoseWith_of_one (mt (zeroErrorCase_iff h).mp hzero) ((oneErrorCase_iff h).mpr hone)
  obtain ⟨h1, h2, -⟩ := syndromesOf_val h
  rw [← h1, ← h2, ← hop]
  simp only [ne_eq, Fin.val_eq_zero_iff]
  refine ⟨fun hs1 => ?_, fun hs1 hs2 => ?_, fun hs1 hs2 => ?_⟩
  · exact exec_of_error hp (computeOf_decode_error h (hd.trans (solveOne_of_s1_eq_zero hs1)) a b)
  · rw [solveOne_of_mul_eq (x := 0) hs1 (by rw [zero_mul, hs2]), if_pos rfl] at hd
    exact exec_of_error hp (computeOf_decode_error h hd a b)
  · obtain ⟨x, hx⟩ := exists_mul_eq (syndromesOf (wordElements p.cw)).s2 hs1
    have hx0 : x ≠ 0 := by
      rintro rfl
      exact hs2 (by rw [← hx, zero_mul])
    rw [solveOne_of_mul_eq hs1 hx, if_neg hx0] at hd
    refine ⟨x.val, one_le_val hx0, val_le_ten x, by rw [← Fin.val_mul, hx], ?_⟩
    rw [exec_decode_of_ok hp hop h hd, locWord_of_zero hone, ← wordElements_val_eq h,
      ← subtractAt_val, Diagnosis.errWord, packElements_eq_word]
    rfl

/-- Settles O20: the solution of the solver's equations is a double error, and its equations in the
field are congruences of the statements' integers. -/
theorem decodeCaseTwoErrors : Obligations.DecodeCaseTwoErrors := by
  intro a b s p hp hop h _ htwo
  have hcase : TwoErrorCase (syndromesOf (wordElements p.cw)) := (twoErrorCase_iff h).mpr htwo
  obtain ⟨r, x1, e1, x2, e2, hr0, hr5, hsol, hd, -⟩ := exists_diagnosis_of_two hcase
  obtain ⟨-, hR, -⟩ := hcase
  have hdouble := hsol.doubleError hR
  obtain ⟨h1, h2, -⟩ := syndromesOf_val h
  obtain ⟨hP, hQ, -, hD⟩ := locatorOf_val h
  refine ⟨r.val, x1.val, e1.val, x2.val, e2.val, one_le_val hr0, hr5, ?_,
    one_le_val hdouble.pos1, val_le_ten x1, one_le_val hdouble.pos2, val_le_ten x2,
    Fin.val_ne_of_ne hdouble.distinct, one_le_val hdouble.mag1, val_le_ten e1,
    one_le_val hdouble.mag2, val_le_ten e2, ?_, ?_, ?_, ?_, ?_⟩
  · rw [← Fin.val_mul, hsol.root, hD]
  · rw [sub_emod_eq_zero_iff, ← hP, ← hQ]
    push_cast
    linear_combination hsol.second
  · rw [sub_emod_eq_zero_iff, ← hP, ← hQ]
    push_cast
    linear_combination hsol.first
  · rw [sub_emod_eq_zero_iff, ← h1, ← h2]
    push_cast
    exact hsol.second_mag
  · rw [sub_emod_eq_zero_iff, ← h1]
    push_cast
    exact hsol.first_mag
  · rw [exec_decode_of_ok hp hop h hd, ← wordElements_val_eq h, ← subtractAt_val,
      ← subtractAt_val, ← packElements_eq_word]
    rfl

/-- Settles O21: the diagnosis corrects nothing. -/
theorem decodeCaseUncorrectable : Obligations.DecodeCaseUncorrectable := by
  intro a b s p hp hop h hzero hone htwo
  have hd : diagnose (syndromesOf (wordElements p.cw)) = .ok .uncorrectable :=
    diagnoseWith_of_none (mt (zeroErrorCase_iff h).mp hzero) (mt (oneErrorCase_iff h).mp hone)
      (mt (twoErrorCase_iff h).mp htwo)
  rw [exec_decode_of_ok hp hop h hd, ← wordElements_val_eq h]
  rfl

end Sys2Proof.Proofs

namespace Sys2Proof.Proofs

open Sys2Proof.Machine Sys2Proof.Spec Sys2Proof.Laws
open scoped Fin.CommRing

/-! ### What a DECODE without a fault leaves (R160, R169) -/

/-- A DECODE without a fault found its snapshot in range and committed the diagnosis. -/
theorem exec_decode_cases {a b : Nat} {s t : State} (h : exec (.decode a b) s = .next t)
    (hf : t.fault = none) :
    ∃ p d, s.phase = .busy p ∧ InRange p.cw ∧
      diagnose (syndromesOf (wordElements p.cw)) = .ok d ∧
      t = s.commit p (.decoded (d.correct (wordElements p.cw)) (syndromesOf (wordElements p.cw))
        (locatorOf (syndromesOf (wordElements p.cw))) d) := by
  obtain ⟨p, hp, ⟨c, -, rfl⟩ | ⟨w, hw, rfl⟩⟩ := exec_cases h
  · cases hf
  · by_cases hr : InRange p.cw
    · cases hd : diagnose (syndromesOf (wordElements p.cw)) with
      | ok d =>
        rw [computeOf_decode hr hd] at hw
        exact ⟨p, d, hp, hr, hd, by rw [Except.ok.inj hw]⟩
      | error c =>
        rw [computeOf_decode_error hr hd] at hw
        cases hw
    · rw [computeOf, (wordCommands_of_not_range hr).2] at hw
      cases hw

@[simp] theorem commit_decoded_cwOut (s : State) (p : Pending) (z : Codeword) (S : Syndromes)
    (L : Locator) (d : Diagnosis) : (s.commit p (.decoded z S L d)).cwOut = symbols z :=
  unpack_packWord (symbols z)

/-- A position that the error descriptor does not name is not corrected (R176). -/
theorem correct_getElem_of_not_named (y : Codeword) (d : Diagnosis) (i : Fin 10)
    (h1 : (nibble d.errWord 0).toNat ≠ i.val + 1) (h2 : (nibble d.errWord 2).toNat ≠ i.val + 1) :
    (d.correct y)[i] = y[i] := by
  cases d with
  | zeroErrors => rfl
  | oneError x e =>
    simp only [Diagnosis.errWord, packElements, nibble_pack4_zero, symbol_toNat] at h1
    simp [Diagnosis.correct, h1]
  | twoErrors x1 e1 x2 e2 =>
    simp only [Diagnosis.errWord, packElements, nibble_pack4_zero, nibble_pack4_two,
      symbol_toNat] at h1 h2
    simp [Diagnosis.correct, h1, h2]
  | uncorrectable => rfl

theorem symbols_getElem (z : Codeword) (i : Fin 10) : (symbols z)[i] = symbol z[i] := by
  simp [symbols]

/-- Settles O26: CW_OUT is a word of field elements, corrected where the descriptor says. -/
theorem decodeOutputWord : Obligations.DecodeOutputWord := by
  intro a b s t p hp hexec hf
  obtain ⟨q, d, hq, h, -, rfl⟩ := exec_decode_cases hexec hf
  cases hp.symm.trans hq
  simp only [commit_decoded_cwOut, commit_decoded_err]
  refine ⟨fun i => symbols_le _ i.val i.isLt, fun i h1 h2 => ?_, by simp⟩
  rw [symbols_getElem, correct_getElem_of_not_named _ d i h1 h2, ← symbols_getElem,
    symbols_wordElements h]

/-! ### What the corrections do to the syndromes (R144, R175) -/

/-- The positions are the nonzero field elements (R3). -/
theorem exists_position {x : GF11} (hx : x ≠ 0) : ∃ j : Fin 10, element (j.val + 1) = x := by
  revert x
  decide

theorem element_position_val (j : Fin 10) : (element (j.val + 1)).val = j.val + 1 :=
  element_val j.isLt

/-- The error pattern with `e` at position `x` and 0 elsewhere. -/
def errorAt (x e : GF11) : Codeword := Vector.ofFn fun i => if x.val = i.val + 1 then e else 0

theorem errorAt_getElem (x e : GF11) (i : Fin 10) :
    (errorAt x e)[i] = if x.val = i.val + 1 then e else 0 := by
  simp [errorAt]

theorem powerSum_errorAt {x : GF11} (hx : x ≠ 0) (e : GF11) (k : Nat) :
    powerSum (errorAt x e) k = e * x ^ k := by
  obtain ⟨j, rfl⟩ := exists_position hx
  have hout (i : Fin 10) (hi : i ≠ j) : (errorAt (element (j.val + 1)) e)[i] = 0 := by
    rw [errorAt_getElem, element_position_val, if_neg fun h => hi (by omega)]
  rw [powerSum_single hout, errorAt_getElem, if_pos (element_position_val j), element_eq_natCast,
    Nat.cast_pow, element_eq_natCast]


theorem powerSum_subtractAt {x : GF11} (hx : x ≠ 0) (y : Codeword) (e : GF11) (k : Nat) :
    powerSum (subtractAt y x e) k = powerSum y k - e * x ^ k := by
  rw [eq_sub_iff_add_eq, ← powerSum_errorAt hx, ← powerSum_add (w := y)]
  intro i
  rw [errorAt_getElem, Fin.getElem_fin, Fin.getElem_fin, subtractAt_getElem]
  split_ifs
  · exact (sub_add_cancel ..).symm
  · exact (add_zero _).symm

theorem syndromesOf_subtractAt_eq_zero_iff {x : GF11} (hx : x ≠ 0) (y : Codeword) (e : GF11) :
    syndromesOf (subtractAt y x e) = ⟨0, 0, 0, 0⟩ ↔ syndromesOf y = singleSyndromes x e := by
  simp only [syndromesOf_eq_powerSums, powerSum_subtractAt hx, singleSyndromes, Syndromes.mk.injEq,
    sub_eq_zero, pow_succ, pow_zero, one_mul, mul_one]

theorem syndromesOf_subtractAt_twice_eq_zero_iff {x1 x2 : GF11} (hx1 : x1 ≠ 0) (hx2 : x2 ≠ 0)
    (y : Codeword) (e1 e2 : GF11) :
    syndromesOf (subtractAt (subtractAt y x1 e1) x2 e2) = ⟨0, 0, 0, 0⟩ ↔
      syndromesOf y = doubleSyndromes x1 e1 x2 e2 := by
  simp only [syndromesOf_eq_powerSums, powerSum_subtractAt hx1, powerSum_subtractAt hx2,
    doubleSyndromes, Syndromes.mk.injEq, sub_sub, sub_eq_zero, pow_succ, pow_zero, one_mul, mul_one]

/-- The output word of a DECODE is a code word, unless the input was uncorrectable (R175). -/
theorem syndromesOf_correct {y : Codeword} {d : Diagnosis} (h : diagnose (syndromesOf y) = .ok d)
    (hd : d ≠ .uncorrectable) : syndromesOf (d.correct y) = ⟨0, 0, 0, 0⟩ := by
  generalize hS : syndromesOf y = S at h
  cases outcome_of_diagnose h with
  | zeroErrors => exact hS
  | oneError hx he => exact (syndromesOf_subtractAt_eq_zero_iff hx y _).mpr hS
  | twoErrors h2 => exact (syndromesOf_subtractAt_twice_eq_zero_iff h2.pos1 h2.pos2 y _ _).mpr hS
  | uncorrectable => exact absurd rfl hd

theorem wordElements_symbols (z : Codeword) : wordElements (symbols z) = z := by
  refine Vector.ext fun i hi => ?_
  simpa [wordElements, symbols] using Fin.ext (element_val (val_le_ten z[i]))

theorem inRange_symbols (z : Codeword) : InRange (symbols z) := fun i => symbols_le z i.val i.isLt

/-- The diagnosis of an output word corrects nothing (R175). -/
theorem diagnose_correct {y : Codeword} {d : Diagnosis} (h : diagnose (syndromesOf y) = .ok d) :
    diagnose (syndromesOf (d.correct y)) =
      .ok (if d = .uncorrectable then .uncorrectable else .zeroErrors) := by
  split_ifs with hd
  · rw [hd] at h ⊢
    exact h
  · exact (diagnose_eq_zeroErrors_iff _).mpr (syndromesOf_correct h hd)

/-- A pending DECODE of a word in range leaves its class, output word and error descriptor, whatever
OP it was accepted with (R169). -/
theorem exists_exec_decode {s : State} {p : Pending} {d : Diagnosis} {out : SymbolWord}
    (hp : s.phase = .busy p) (h : InRange p.cw)
    (hd : diagnose (syndromesOf (wordElements p.cw)) = .ok d)
    (hout : symbols (d.correct (wordElements p.cw)) = out) (a b : Nat) :
    ∃ t, exec (.decode a b) s = .next t ∧ t.fault = none ∧ t.cls = some d.cls ∧ t.cwOut = out ∧
      t.err = d.errWord :=
  ⟨_, exec_of_ok hp (computeOf_decode h hd a b), rfl, rfl, (commit_decoded_cwOut ..).trans hout,
    rfl⟩

theorem cls_eq_uncorrectable_iff (d : Diagnosis) :
    d.cls = .uncorrectable ↔ d = .uncorrectable := by
  cases d <;> simp [Diagnosis.cls]

/-- Settles O25: an output word is a code word, or an uncorrectable input unchanged. -/
theorem decodingTheOutputAgain : Obligations.DecodingTheOutputAgain := by
  intro a b a' b' s s' t p' hexec hf hp' hcw
  obtain ⟨p, d, -, -, hd, rfl⟩ := exec_decode_cases hexec hf
  rw [commit_decoded_cwOut] at hcw ⊢
  have hr : InRange p'.cw := hcw ▸ inRange_symbols _
  have hagain := diagnose_correct hd
  rw [← wordElements_symbols (d.correct (wordElements p.cw)), ← hcw] at hagain
  simp only [commit_cls, Writes.cls, Option.some.injEq, cls_eq_uncorrectable_iff, ← hcw]
  split_ifs at hagain ⊢
  all_goals
    obtain ⟨t', hexec', hf', hcls, hout, herr⟩ :=
      exists_exec_decode hp' hr hagain (symbols_wordElements hr) a' b'
    exact ⟨t', hexec', hf', hout, herr, hcls⟩

/-! ### Up to two errors added to a code word (R172) -/

theorem element_add_sub (c e : Nat) : element ((c + e) % 11) - element e = element c := by
  have hmod : element ((c + e) % 11) = element (c + e) := Fin.ext (Nat.mod_mod _ _)
  rw [hmod, element_eq_natCast, Nat.cast_add]
  exact add_sub_cancel_right ..

theorem wordElements_getElem (cw : SymbolWord) (i : Fin 10) :
    (wordElements cw)[i] = element (cw[i]).toNat := by
  simp [wordElements]

/-- A word of field elements is given by its symbols. -/
theorem codeword_ext {y z : Codeword} (h : ∀ i : Fin 10, y[i] = z[i]) : y = z :=
  Vector.ext fun i hi => h ⟨i, hi⟩

/-- Subtracting at position `j + 1` touches the symbol `j` alone (R166). -/
theorem subtractAt_position (z : Codeword) (j i : Fin 10) (e : GF11) :
    (subtractAt z (element (j.val + 1)) e)[i] = if i = j then z[i] - e else z[i] := by
  rw [Fin.getElem_fin, subtractAt_getElem, element_position_val]
  simp only [Nat.add_right_cancel_iff, Fin.ext_iff, eq_comm]
  rfl

theorem subtractAt_of_added {cw code : SymbolWord} {x : Fin 10} {e : Nat}
    (hadd : ∀ i : Fin 10, (cw[i]).toNat =
      if i = x then ((code[i]).toNat + e) % 11 else (code[i]).toNat) :
    subtractAt (wordElements cw) (element (x.val + 1)) (element e) = wordElements code := by
  refine codeword_ext fun i => ?_
  rw [subtractAt_position, wordElements_getElem, wordElements_getElem, hadd]
  split_ifs
  · exact element_add_sub ..
  · rfl

theorem subtractAt_twice_of_added {cw code : SymbolWord} {x1 x2 : Fin 10} {e1 e2 : Nat}
    (hne : x1 ≠ x2)
    (hadd : ∀ i : Fin 10, (cw[i]).toNat =
      if i = x1 then ((code[i]).toNat + e1) % 11
      else if i = x2 then ((code[i]).toNat + e2) % 11 else (code[i]).toNat) :
    subtractAt (subtractAt (wordElements cw) (element (x1.val + 1)) (element e1))
      (element (x2.val + 1)) (element e2) = wordElements code := by
  refine codeword_ext fun i => ?_
  rw [subtractAt_position, subtractAt_position, wordElements_getElem, wordElements_getElem, hadd]
  split_ifs with h1 h2 h2
  · exact absurd (h2.symm.trans h1) hne
  · exact element_add_sub ..
  · exact element_add_sub ..
  · rfl

theorem errWord_oneError {x e : Nat} (hx : x ≤ 10) (he : e ≤ 10) :
    (Diagnosis.oneError (element x) (element e)).errWord = word x e 0 0 := by
  rw [Diagnosis.errWord, packElements_eq_word, element_val hx, element_val he]
  rfl

theorem errWord_twoErrors {x1 e1 x2 e2 : Nat} (hx1 : x1 ≤ 10) (he1 : e1 ≤ 10) (hx2 : x2 ≤ 10)
    (he2 : e2 ≤ 10) :
    (Diagnosis.twoErrors (element x1) (element e1) (element x2) (element e2)).errWord =
      word x1 e1 x2 e2 := by
  rw [Diagnosis.errWord, packElements_eq_word, element_val hx1, element_val he1, element_val hx2,
    element_val he2]

/-- Settles O22: without the errors the word is a code word, so its syndromes are those of the
errors, and these are what the diagnosis finds and takes away. -/
theorem correctsUpToTwoErrors : Obligations.CorrectsUpToTwoErrors := by
  intro a b s p code hp _ hcode hzero
  have hdcode : diagnose (syndromesOf (wordElements code)) = .ok .zeroErrors :=
    diagnoseWith_of_zero ((zeroErrorCase_iff hcode).mpr hzero)
  have hsyn := (diagnose_eq_zeroErrors_iff _).mp hdcode
  have hout := symbols_wordElements hcode
  have hpos (x : Fin 10) : element (x.val + 1) ≠ 0 := element_ne_zero (Nat.le_add_left ..) x.isLt
  refine ⟨?_, fun x e he1 he hadd => ?_, fun x1 x2 e1 e2 hne he1 he1' he2 he2' hadd => ?_⟩
  · rintro rfl
    exact exists_exec_decode hp hcode hdcode hout a b
  · have hr : InRange p.cw := fun i => by
      have := hcode i
      rw [hadd]
      split_ifs <;> omega
    have hcorrect := subtractAt_of_added hadd
    have hS := (syndromesOf_subtractAt_eq_zero_iff (hpos x) _ _).mp (hcorrect ▸ hsyn)
    have hd := diagnoseWith_single (hpos x) (element_ne_zero he1 he) Config.sqrtRoot
    rw [← hS] at hd
    rw [← errWord_oneError x.isLt he]
    exact exists_exec_decode hp hr hd ((congrArg symbols hcorrect).trans hout) a b
  · have hr : InRange p.cw := fun i => by
      have := hcode i
      rw [hadd]
      split_ifs <;> omega
    have hcorrect := subtractAt_twice_of_added hne hadd
    have hS := (syndromesOf_subtractAt_twice_eq_zero_iff (hpos x1) (hpos x2) _ _ _).mp
      (hcorrect ▸ hsyn)
    have hdouble : DoubleError (element (x1.val + 1)) (element e1) (element (x2.val + 1))
        (element e2) :=
      ⟨hpos x1, hpos x2, position_injective.ne hne, element_ne_zero he1 he1',
        element_ne_zero he2 he2'⟩
    have hd := hdouble.diagnoseWith_eq Config.sqrtRoot
    rw [← hS] at hd
    rw [← errWord_twoErrors x1.isLt he1' x2.isLt he2',
      ← errWord_twoErrors x2.isLt he2' x1.isLt he1']
    obtain hd | hd := hd
    · obtain ⟨t, hexec, hf, hcls, hcw, herr⟩ :=
        exists_exec_decode hp hr hd ((congrArg symbols hcorrect).trans hout) a b
      exact ⟨t, hexec, hf, hcls, hcw, .inl herr⟩
    · obtain ⟨t, hexec, hf, hcls, hcw, herr⟩ := exists_exec_decode hp hr hd
        ((congrArg symbols ((subtractAt_comm ..).trans hcorrect)).trans hout) a b
      exact ⟨t, hexec, hf, hcls, hcw, .inr herr⟩

end Sys2Proof.Proofs

namespace Sys2Proof.Proofs

open Sys2Proof.Machine Sys2Proof.Spec Sys2Proof.Laws

/-! ### What a commit does to STATUS (R208, R209) -/

/-- Settles O29: the engine's turn and a command each end in one of the two commits, and only the
fault commit records a fault. -/
theorem faultsArePrecise : Obligations.FaultsArePrecise := by
  rintro s t p c hp (hturn | ⟨i, hexec⟩) hf
  · obtain ⟨hidle, -⟩ | ⟨q, hq, ⟨c', rfl, -⟩ | ⟨i, w, -, -, rfl⟩⟩ := engineTurn_commit_cases hturn
    · cases hp.symm.trans hidle
    · cases hp.symm.trans hq
      cases hf
      rfl
    · cases hf
  · obtain ⟨q, hq, ⟨c', -, rfl⟩ | ⟨w, -, rfl⟩⟩ := exec_cases hexec
    · cases hp.symm.trans hq
      cases hf
      rfl
    · cases hf

/-- Settles O30: a commit without a fault is the successful one, and only DECODE writes a class. -/
theorem successfulCommitStatus : Obligations.SuccessfulCommitStatus := by
  intro i s t p hp hexec hf
  obtain ⟨q, hq, ⟨c, -, rfl⟩ | ⟨w, hw, rfl⟩⟩ := exec_cases hexec
  · cases hf
  · cases hp.symm.trans hq
    have hcls : w.cls = none ↔ ∀ a b, i ≠ .decode a b := by
      simpa using not_congr (computeOf_cls hw)
    simp [hcls]

/-! ### Which fault a command raises (R202 to R205) -/

/-- A command's commit is the fault commit of `c` exactly when the command computes that fault. -/
theorem exec_eq_faultCommitted_iff {i : Instr} {s : State} {p : Pending} {c : CmdFault}
    (hp : s.phase = .busy p) :
    exec i s = .next (faultCommitted s p.op c) ↔ computeOf i p = .error c := by
  refine ⟨fun h => ?_, exec_of_error hp⟩
  obtain ⟨q, hq, ⟨c', hc, ht⟩ | ⟨w, -, ht⟩⟩ := exec_cases h
  · cases hp.symm.trans hq
    cases congrArg State.fault ht
    exact hc
  · cases congrArg State.fault ht

theorem binaryField_error_iff {F : GF11 → GF11 → Except CmdFault GF11} {a b : Nat} {c : CmdFault}
    (ha : a ≤ 10) (hb : b ≤ 10) :
    binaryField F a b = .error c ↔ F (element a) (element b) = .error c := by
  cases hF : F (element a) (element b) with
  | ok y => simp [binaryField_of_ok ha hb hF]
  | error c' => simp [binaryField_of_error ha hb hF]

theorem unaryField_error_iff {F : GF11 → Except CmdFault GF11} {a : Nat} {c : CmdFault}
    (ha : a ≤ 10) : unaryField F a = .error c ↔ F (element a) = .error c := by
  cases hF : F (element a) with
  | ok y => simp [unaryField_of_ok ha hF]
  | error c' => simp [unaryField_of_error ha hF]

theorem computeOf_decode_error_iff {p : Pending} {c : CmdFault} (h : InRange p.cw) (a b : Nat) :
    computeOf (.decode a b) p = .error c ↔
      diagnose (syndromesOf (wordElements p.cw)) = .error c := by
  cases hd : diagnose (syndromesOf (wordElements p.cw)) with
  | ok d => simp [computeOf_decode h hd]
  | error c' => simp [computeOf_decode_error h hd]

theorem gf_inv_element_error_iff {a : Nat} {c : CmdFault} (ha : a ≤ 10) :
    Gf.inv (element a) = .error c ↔ a = 0 ∧ c = .divByZero := by
  rw [gf_inv_error_iff, ← element_inj ha (Nat.zero_le 10)]
  rfl

theorem gf_div_element_error_iff {x : GF11} {b : Nat} {c : CmdFault} (hb : b ≤ 10) :
    Gf.div x (element b) = .error c ↔ b = 0 ∧ c = .divByZero := by
  rw [gf_div_error_iff, ← element_inj hb (Nat.zero_le 10)]
  rfl

theorem gf_sqrt_element_error_iff {a : Nat} {c : CmdFault} (ha : a ≤ 10) :
    Gf.sqrt (element a) = .error c ↔ a ∈ [2, 6, 7, 8, 10] ∧ c = .nonResidue := by
  rw [gf_sqrt_error_iff]
  refine and_congr_left' ?_
  interval_cases a <;> decide

theorem diagnose_divByZero_iff_synOf {cw : SymbolWord} (h : InRange cw) :
    diagnose (syndromesOf (wordElements cw)) = .error .divByZero ↔
      synOf cw 1 = 0 ∧ synOf cw 2 = 0 ∧ synOf cw 3 = 0 ∧ synOf cw 4 ≠ 0 := by
  obtain ⟨h1, h2, h3, h4⟩ := syndromesOf_val h
  simp only [diagnose_eq_divByZero_iff_fields, ← h1, ← h2, ← h3, ← h4, ne_eq, Fin.val_eq_zero_iff]

theorem diagnose_badPosition_iff_synOf {cw : SymbolWord} (h : InRange cw) :
    diagnose (syndromesOf (wordElements cw)) = .error .badPosition ↔
      synOf cw 1 ≠ 0 ∧ synOf cw 2 = 0 ∧ synOf cw 3 = 0 ∧ synOf cw 4 = 0 := by
  obtain ⟨h1, h2, h3, h4⟩ := syndromesOf_val h
  simp only [diagnose_eq_badPosition_iff_fields, ← h1, ← h2, ← h3, ← h4, ne_eq, Fin.val_eq_zero_iff]

/-- The faults that a command's own operation raises on operands and symbols in range (R202 to
R204). -/
inductive OwnFault (p : Pending) : Instr → CmdFault → Prop
  | invZero (b : Nat) : OwnFault p (.inv 0 b) .divByZero
  | divZero (a : Nat) : OwnFault p (.div a 0) .divByZero
  | sqrtNonResidue {a : Nat} (b : Nat) (ha : a ∈ [2, 6, 7, 8, 10]) :
      OwnFault p (.sqrt a b) .nonResidue
  | lastSyndrome (a b : Nat)
      (h : synOf p.cw 1 = 0 ∧ synOf p.cw 2 = 0 ∧ synOf p.cw 3 = 0 ∧ synOf p.cw 4 ≠ 0) :
      OwnFault p (.decode a b) .divByZero
  | firstSyndrome (a b : Nat)
      (h : synOf p.cw 1 ≠ 0 ∧ synOf p.cw 2 = 0 ∧ synOf p.cw 3 = 0 ∧ synOf p.cw 4 = 0) :
      OwnFault p (.decode a b) .badPosition

/-- DECODE's own faults are those of the diagnosis (R160). -/
theorem diagnose_error_iff_ownFault {p : Pending} {c : CmdFault} (h : InRange p.cw) (a b : Nat) :
    diagnose (syndromesOf (wordElements p.cw)) = .error c ↔ OwnFault p (.decode a b) c := by
  constructor
  · intro hd
    obtain rfl | rfl := diagnose_error_cases hd
    · exact .lastSyndrome a b ((diagnose_divByZero_iff_synOf h).mp hd)
    · exact .firstSyndrome a b ((diagnose_badPosition_iff_synOf h).mp hd)
  · rintro (_ | _ | _ | ⟨_, _, hsyn⟩ | ⟨_, _, hsyn⟩)
    · exact (diagnose_divByZero_iff_synOf h).mpr hsyn
    · exact (diagnose_badPosition_iff_synOf h).mpr hsyn

theorem outOfRange_iff_of_two_operands {i : Instr} {a b : Nat} (p : Pending)
    (hused : usedOperands i = [a, b]) (hword : ¬ UsesWord i) :
    OutOfRange i p ↔ 10 < a ∨ 10 < b := by
  simp [OutOfRange, hused, hword]

theorem outOfRange_iff_of_one_operand {i : Instr} {a : Nat} (p : Pending)
    (hused : usedOperands i = [a]) (hword : ¬ UsesWord i) : OutOfRange i p ↔ 10 < a := by
  simp [OutOfRange, hused, hword]

theorem outOfRange_synd_iff (a b : Nat) (p : Pending) :
    OutOfRange (.synd a b) p ↔ ¬ InRange p.cw := by
  simp [OutOfRange, usedOperands, UsesWord]

theorem outOfRange_decode_iff (a b : Nat) (p : Pending) :
    OutOfRange (.decode a b) p ↔ ¬ InRange p.cw := by
  simp [OutOfRange, usedOperands, UsesWord]

/-- What is out of range comes before everything else a command computes (R205, R207). -/
theorem computeOf_of_outOfRange {i : Instr} {p : Pending} (h : OutOfRange i p) :
    computeOf i p = .error .range := by
  cases i with
  | add a b | sub a b | mul a b | div a b =>
    rw [computeOf]
    exact binaryField_of_gt _ ((outOfRange_iff_of_two_operands p rfl id).mp h)
  | inv a b | sqrt a b =>
    exact unaryField_of_gt _ ((outOfRange_iff_of_one_operand p rfl id).mp h)
  | synd a b => exact (wordCommands_of_not_range ((outOfRange_synd_iff a b p).mp h)).1
  | decode a b => exact (wordCommands_of_not_range ((outOfRange_decode_iff a b p).mp h)).2

/-- In range, a command raises the faults of its own operation and no others (R202 to R204). -/
theorem computeOf_error_iff_ownFault {i : Instr} {p : Pending} {c : CmdFault}
    (h : ¬ OutOfRange i p) : computeOf i p = .error c ↔ OwnFault p i c := by
  cases i with
  | add a b | sub a b | mul a b =>
    rw [outOfRange_iff_of_two_operands p rfl id, not_or, Nat.not_lt, Nat.not_lt] at h
    obtain ⟨ha, hb⟩ := h
    rw [computeOf, binaryField_error_iff ha hb]
    exact iff_of_false nofun nofun
  | inv a b =>
    rw [outOfRange_iff_of_one_operand p rfl id, Nat.not_lt] at h
    rw [computeOf, unaryField_error_iff h, gf_inv_element_error_iff h]
    exact ⟨by rintro ⟨rfl, rfl⟩; exact .invZero b, by rintro ⟨⟩; exact ⟨rfl, rfl⟩⟩
  | div a b =>
    rw [outOfRange_iff_of_two_operands p rfl id, not_or, Nat.not_lt, Nat.not_lt] at h
    obtain ⟨ha, hb⟩ := h
    rw [computeOf, binaryField_error_iff ha hb, gf_div_element_error_iff hb]
    exact ⟨by rintro ⟨rfl, rfl⟩; exact .divZero a, by rintro ⟨⟩; exact ⟨rfl, rfl⟩⟩
  | sqrt a b =>
    rw [outOfRange_iff_of_one_operand p rfl id, Nat.not_lt] at h
    rw [computeOf, unaryField_error_iff h, gf_sqrt_element_error_iff h]
    exact ⟨by rintro ⟨ha, rfl⟩; exact .sqrtNonResidue b ha,
      by rintro (_ | _ | ⟨_, ha⟩); exact ⟨ha, rfl⟩⟩
  | synd a b =>
    rw [outOfRange_synd_iff, not_not] at h
    rw [computeOf, syndCommand_of_range h]
    exact iff_of_false nofun nofun
  | decode a b =>
    rw [outOfRange_decode_iff, not_not] at h
    rw [computeOf_decode_error_iff h, diagnose_error_iff_ownFault h]

/-- A command's fault other than RANGE is its own operation's, in range (R207). -/
theorem computeOf_error_iff_of_ne_range {i : Instr} {p : Pending} {c : CmdFault} (hc : c ≠ .range) :
    computeOf i p = .error c ↔ ¬ OutOfRange i p ∧ OwnFault p i c := by
  by_cases h : OutOfRange i p
  · simp [computeOf_of_outOfRange h, h, hc.symm]
  · simp [computeOf_error_iff_ownFault h, h]

/-- Settles O32: no operation raises RANGE of its own. -/
theorem rangeFaultCause : Obligations.RangeFaultCause := by
  intro i s p hp
  rw [exec_eq_faultCommitted_iff hp]
  refine ⟨computeOf_of_outOfRange, fun h => ?_⟩
  by_contra hr
  cases (computeOf_error_iff_ownFault hr).mp h

/-- Settles O33: the three operations whose own fault is DIV_BY_ZERO. -/
theorem divByZeroCause : Obligations.DivByZeroCause := by
  intro i s p hp
  rw [exec_eq_faultCommitted_iff hp, computeOf_error_iff_of_ne_range (by decide)]
  refine and_congr_right' ⟨?_, ?_⟩
  · rintro (⟨b⟩ | ⟨a⟩ | _ | ⟨a, b, hsyn⟩)
    · exact .inl ⟨b, rfl⟩
    · exact .inr (.inl ⟨a, rfl⟩)
    · exact .inr (.inr ⟨⟨a, b, rfl⟩, hsyn⟩)
  · rintro (⟨b, rfl⟩ | ⟨a, rfl⟩ | ⟨⟨a, b, rfl⟩, hsyn⟩)
    · exact .invZero b
    · exact .divZero a
    · exact .lastSyndrome a b hsyn

/-- Settles O34: the non-residues are in range. -/
theorem nonResidueCause : Obligations.NonResidueCause := by
  intro i s p hp
  rw [exec_eq_faultCommitted_iff hp, computeOf_error_iff_of_ne_range (by decide)]
  constructor
  · rintro ⟨-, _ | _ | ⟨b, ha⟩⟩
    exact ⟨_, b, rfl, ha⟩
  · rintro ⟨a, b, rfl, ha⟩
    have hle : a ≤ 10 := (by decide : ∀ a ∈ [2, 6, 7, 8, 10], a ≤ 10) a ha
    rw [outOfRange_iff_of_one_operand p rfl id, Nat.not_lt]
    exact ⟨hle, .sqrtNonResidue b ha⟩

/-- Settles O35: DECODE alone raises BAD_POSITION, on a word that it found in range. -/
theorem badPositionCause : Obligations.BadPositionCause := by
  intro i s p hp
  rw [exec_eq_faultCommitted_iff hp, computeOf_error_iff_of_ne_range (by decide)]
  constructor
  · rintro ⟨hr, _ | _ | _ | _ | ⟨a, b, hsyn⟩⟩
    rw [outOfRange_decode_iff, not_not] at hr
    exact ⟨⟨a, b, rfl⟩, hr, hsyn⟩
  · rintro ⟨⟨a, b, rfl⟩, hr, hsyn⟩
    rw [outOfRange_decode_iff, not_not]
    exact ⟨hr, .firstSyndrome a b hsyn⟩

/-! ### The engine's turn on any pending word (R206, R207) -/

/-- The reserved OP values are the ones that the map does not name (R82, R83). -/
theorem mem_reservedOps_iff (op : Sym4) : op ∈ reservedOps ↔ op ∉ opcodes := by
  revert op
  decide

/-- A pending word decodes to a command exactly when its RSV is 0 and its OP is not reserved
(R89). -/
theorem exists_pendingDecode_ok_iff (p : Pending) :
    (∃ i, p.decode = .ok i) ↔ p.rsv = 0#4 ∧ p.op ∈ opcodes := by
  simp only [Pending.decode, decodeCmd_eq_ok_iff]
  constructor
  · rintro ⟨i, hrsv, hop, -⟩
    exact ⟨hrsv, hop ▸ opcode_mem_opcodes i⟩
  · rintro ⟨hrsv, hop⟩
    obtain ⟨i, hi, ha, hb⟩ := exists_instr_of_mem_opcodes hop p.a.toNat p.b.toNat
    exact ⟨i, hrsv, hi.symm, ha.symm, hb.symm⟩

/-- The illegal words of R206. -/
theorem exists_pendingDecode_error_iff (p : Pending) :
    (∃ e, p.decode = .error e) ↔ p.op ∈ reservedOps ∨ p.rsv ≠ 0#4 := by
  have hok := exists_pendingDecode_ok_iff p
  rw [mem_reservedOps_iff, or_comm, ← not_and_or, ← hok]
  cases p.decode <;> simp

/-- When the engine is next, a step runs the command that the pending word decodes to (R47). -/
theorem step_of_decode {s : State} {p : Pending} {i : Instr} (hp : s.phase = .busy p)
    (hnext : nextEvent s = .engine) (hd : p.decode = .ok i) :
    step s = exec i { s with schedule := s.schedule.tail } := by
  rw [step_eq_perform, hnext]
  exact engineTurn_of_decode hp hd

/-- When the engine is next, a step faults a pending word that decodes to no command (R206). -/
theorem step_of_decode_error {s : State} {p : Pending} {e : DecodeError} (hp : s.phase = .busy p)
    (hnext : nextEvent s = .engine) (hd : p.decode = .error e) :
    step s = .next (faultCommitted { s with schedule := s.schedule.tail } p.op .illegalOp) := by
  rw [step_eq_perform, hnext]
  simp only [perform, engineTurn, hp, hd]
  rfl

/-- Settles O31: an illegal word has no command, and no command raises ILLEGAL_OP. -/
theorem illegalWordsFault : Obligations.IllegalWordsFault := by
  intro s p hp hnext
  rw [← exists_pendingDecode_error_iff]
  refine ⟨fun ⟨e, hd⟩ => step_of_decode_error hp hnext hd, fun t hstep hf => ?_⟩
  cases hd : p.decode with
  | error e => exact ⟨e, rfl⟩
  | ok i =>
    rw [step_of_decode hp hnext hd] at hstep
    obtain ⟨q, -, ⟨c, hc, rfl⟩ | ⟨w, -, rfl⟩⟩ := exec_cases hstep
    · cases hf
      obtain ⟨-, hown⟩ := (computeOf_error_iff_of_ne_range (by decide)).mp hc
      cases hown
    · cases hf

/-- Settles O36: the decoder comes first, then the range check, then the operation. -/
theorem faultPriority : Obligations.FaultPriority := by
  intro s p hp hnext
  cases hd : p.decode with
  | error e => exact ⟨_, step_of_decode_error hp hnext hd, fun _ => rfl, nofun, nofun⟩
  | ok i =>
    rw [step_of_decode hp hnext hd]
    obtain ⟨c, hc, hexec⟩ | ⟨w, hw, hexec⟩ := exec_busy i p <;>
      refine ⟨_, hexec _ hp, nofun, ?_, ?_⟩ <;> rintro _ ⟨rfl⟩ hr
    · cases hc.symm.trans (computeOf_of_outOfRange hr)
      rfl
    · cases (computeOf_error_iff_ownFault hr).mp hc <;> simp
    · cases hw.symm.trans (computeOf_of_outOfRange hr)
    · simp

/-- Settles O39: an access and a reset cycle are total, and so is the engine's turn. -/
theorem noStepStops : Obligations.NoStepStops := by
  intro s
  rw [step_eq_perform]
  cases nextEvent s with
  | host a => exact ⟨_, rfl⟩
  | engine =>
    obtain ⟨t, ht, -⟩ := engineTurn_next { s with schedule := s.schedule.tail }
    exact ⟨t, ht⟩
  | reset a => exact ⟨_, rfl⟩

end Sys2Proof.Proofs

namespace Sys2Proof.Proofs

open Sys2Proof.Machine Sys2Proof.Spec Sys2Proof.Laws

/-! ### Reset cycles (R230) -/

/-- A read in a reset cycle returns the reset value of every register, which is 0. -/
theorem resetCycle_read (s : State) (idx : RegIdx) :
    s.resetCycle (some (.read idx)) =
      { State.reset with schedule := s.schedule, reads := ⟨idx, 0#16⟩ :: s.reads } := by
  rw [State.resetCycle, resetStateReadsZero.2 idx]
  rfl

/-- Without a read a reset cycle is the reset of the block: a write in it is ignored. -/
theorem resetCycle_of_not_read {a : Option Access} (h : ∀ idx, a ≠ some (.read idx)) (s : State) :
    s.resetCycle a = s.resetBlock := by
  cases a with
  | none => rfl
  | some x =>
    cases x with
    | read idx => exact absurd rfl (h idx)
    | write idx v => rfl

/-- Settles O45, by whether the host reads in the cycle. -/
theorem resetCycle : Obligations.ResetCycle := by
  intro s a rest hs
  rw [step_of_reset hs]
  refine ⟨?_, fun h => ?_⟩
  · rintro idx rfl
    rw [resetCycle_read]
  · rw [resetCycle_of_not_read h]
    rfl

/-! ### What a step leaves scheduled (R69) -/

theorem engineTurn_schedule {s t : State} (h : engineTurn s = .next t) :
    t.schedule = s.schedule := by
  obtain ⟨u, hu, -, hsch, -⟩ := engineTurn_next s
  cases hu.symm.trans h
  exact hsch

theorem access_schedule (s : State) (a : Access) : (s.access a).schedule = s.schedule := by
  have h := congrArg State.schedule (access_setSchedule s a s.schedule)
  exact h

/-- A step takes the next event off the schedule, and nothing else. -/
theorem step_schedule {s t : State} (h : step s = .next t) : t.schedule = s.schedule.tail := by
  obtain ⟨hs, ht⟩ | ⟨rest, hs, ht⟩ | ⟨a, rest, hs, rfl⟩ | ⟨a, rest, hs, rfl⟩ := step_cases h
  · rw [engineTurn_schedule ht, hs, List.tail_nil]
  · rw [engineTurn_schedule ht, hs, List.tail_cons]
  · rw [access_schedule, hs, List.tail_cons]
  · rw [hs, List.tail_cons]
    obtain hr | ⟨idx, v, hr⟩ := resetCycle_cases { s with schedule := rest } a <;> rw [hr] <;> rfl

/-! ### The cycle of a commit (R238) -/

/-- A cycle with an access and a commit ends in the engine's turn on what the access leaves. -/
theorem after_cycle {s t : State} {a : Access} (h : engineTurn (s.access a) = .next t) :
    After 2 { s with schedule := (Cycle.mk false (some a) true).events ++ s.schedule } t := by
  have hsch : t.schedule = s.schedule := (engineTurn_schedule h).trans (access_schedule s a)
  refine after_succ (step_host_cons s a _) (after_succ (step_engine_cons h s.schedule) ?_)
  rw [← hsch]
  rfl

/-- In the other order it ends in the access to what the engine's turn leaves. -/
theorem after_engine_host {s t : State} (h : engineTurn s = .next t) (a : Access) :
    After 2 { s with schedule := .engine :: .host a :: s.schedule } (t.access a) := by
  have hsch : (t.access a).schedule = s.schedule :=
    (access_schedule t a).trans (engineTurn_schedule h)
  refine after_succ (step_engine_cons h _) (after_succ (step_host_cons t a s.schedule) ?_)
  rw [← hsch]
  rfl

theorem issue_of_busy {s : State} {p : Pending} (hp : s.phase = .busy p) (v : Word16) :
    s.issue v = { s with ovr := true } := by
  simp [State.issue, hp]

/-- The engine's turn commutes with the setting of OVR (R28). -/
theorem engineTurn_setOvr {s t : State} (h : engineTurn s = .next t) :
    engineTurn { s with ovr := true } = .next { t with ovr := true } :=
  engineTurn_map (f := fun s => { s with ovr := true }) (fun _ => rfl)
    (fun _ _ w => by cases w <;> rfl) (fun _ _ _ => rfl) h

/-- The engine's turn commutes with what the host is given (R44). -/
theorem engineTurn_setReads {s t : State} (h : engineTurn s = .next t) (rds : List ReadReturn) :
    engineTurn { s with reads := rds } = .next { t with reads := rds } :=
  engineTurn_map (f := fun s => { s with reads := rds }) (fun _ => rfl)
    (fun _ _ w => by cases w <;> rfl) (fun _ _ _ => rfl) h

/-- Settles O53: the access comes first, and each of the three commutes with the engine's turn. -/
theorem sameCycleCollision : Obligations.SameCycleCollision := by
  rintro s t0 p _ hp rfl hturn
  refine ⟨fun v => after_cycle ?_, fun idx v hidx => ⟨after_cycle ?_, ?_⟩,
    fun idx => after_cycle ?_⟩
  · rw [access_cmdWrite, issue_of_busy hp]
    exact engineTurn_setOvr hturn
  · exact engineTurn_regWrite_cwIn hidx v hturn
  · exact after_engine_host hturn (.write idx v)
  · exact engineTurn_setReads hturn _

/-! ### Progress (R241) -/

/-- A schedule is host accesses up to the first engine turn or reset, where its end counts as an
engine turn. -/
theorem exists_leading_accesses (evs : List Event) :
    ∃ (accs : List Access) (rest : List Event), evs = accs.map .host ++ rest ∧
      ∀ a, rest.headD .engine ≠ .host a := by
  induction evs with
  | nil => exact ⟨[], [], rfl, nofun⟩
  | cons e evs ih =>
    cases e with
    | host a =>
      obtain ⟨accs, rest, rfl, hrest⟩ := ih
      exact ⟨a :: accs, rest, rfl, hrest⟩
    | engine => exact ⟨[], .engine :: evs, rfl, nofun⟩
    | reset a => exact ⟨[], .reset a :: evs, rfl, nofun⟩

theorem SameButInputs.schedule {s u : State} (h : SameButInputs s u) : u.schedule = s.schedule := by
  obtain ⟨o, c0, c1, c2, rds, -, rfl⟩ := h
  rfl

/-- A command stays pending through the host accesses before the next engine turn or reset. -/
theorem busy_until_engine_or_reset {s : State} {p : Pending} (hp : s.phase = .busy p) :
    ∃ k u, k ≤ s.schedule.length ∧ After k s u ∧ u.phase = .busy p ∧
      u.schedule = s.schedule.drop k ∧ (nextEvent u = .engine ∨ ResetNext u) := by
  obtain ⟨accs, rest, hs, hrest⟩ := exists_leading_accesses s.schedule
  have hsame := accesses_sameButInputs (s := { s with schedule := rest }) hp accs
  have hrun := after_accesses hs
  generalize accs.foldl State.access { s with schedule := rest } = u at hsame hrun
  have hsch : u.schedule = rest := hsame.schedule
  refine ⟨accs.length, u, by simp [hs], hrun, hsame.phase.trans hp, by simp [hs, hsch], ?_⟩
  rw [← hsch] at hrest
  cases hnext : nextEvent u with
  | host a => exact absurd hnext (hrest a)
  | engine => exact .inl rfl
  | reset a => exact .inr ⟨a, hnext⟩

/-- A reset that is next is scheduled. -/
theorem not_resetNext_of_noReset {s : State} (h : NoReset s.schedule) : ¬ ResetNext s := by
  rintro ⟨a, ha⟩
  cases hs : s.schedule with
  | nil => simp [nextEvent, hs] at ha
  | cons e rest =>
    have he : e = .reset a := by simpa [nextEvent, hs] using ha
    exact h e (by simp [hs]) a he

/-- With a command pending and the engine next, the step leaves the block IDLE with the command
committed (R47). -/
theorem step_commits {s : State} {p : Pending} (hp : s.phase = .busy p)
    (hnext : nextEvent s = .engine) :
    ∃ t, step s = .next t ∧ t.phase = .idle ∧ t.valid = true ∧ t.lastOp = p.op := by
  obtain ⟨t, ht, hidle, -, hcommit⟩ := engineTurn_next { s with schedule := s.schedule.tail }
  refine ⟨t, ?_, hidle, hcommit p hp⟩
  rw [step_eq_perform, hnext]
  exact ht

/-- Each step takes one event, and the engine's turn at the end leaves the block IDLE. -/
theorem exists_idle_after_schedule (s : State) :
    ∃ t, After (s.schedule.length + 1) s t ∧ t.phase = .idle ∧ t.schedule = [] := by
  induction hs : s.schedule generalizing s with
  | nil =>
    obtain ⟨t, ht, hidle, hsch, -⟩ := engineTurn_next s
    exact ⟨t, after_succ ((step_of_nil hs).trans ht) rfl, hidle, hsch.trans hs⟩
  | cons e rest ih =>
    obtain ⟨u, hu⟩ := noStepStops s
    have hrest : u.schedule = rest := by rw [step_schedule hu, hs, List.tail_cons]
    obtain ⟨t, ht, hdone⟩ := ih u hrest
    exact ⟨t, after_succ hu ht, hdone⟩

/-- Settles O55: the accesses before the first engine turn or reset leave the command pending, and
each event takes one step. -/
theorem everyCommandCommits : Obligations.EveryCommandCommits := by
  refine ⟨fun s p hp => ?_, exists_idle_after_schedule⟩
  obtain ⟨k, u, hk, hrun, hbusy, hsch, hnext⟩ := busy_until_engine_or_reset hp
  refine ⟨k, u, hk, hrun, hbusy, hsch, hnext, fun hreset => ?_, fun hengine => ⟨fun i hd => ?_,
    fun e hd => ?_, step_commits hbusy hengine⟩⟩
  · refine hnext.resolve_right (not_resetNext_of_noReset fun e he => hreset e ?_)
    rw [hsch] at he
    exact List.mem_of_mem_drop he
  · exact step_of_decode hbusy hengine hd
  · exact step_of_decode_error hbusy hengine hd

end Sys2Proof.Proofs
